-- ==== Sys2Proof/Word.lean ====
section
/-! DEFINITION. The word types of the FL64: bytes, 16-bit and 32-bit words, port and slot numbers, times. -/

namespace Sys2Proof

/-- One byte of the exchange memory (section 0-6-2). -/
abbrev Byte := BitVec 8

/-- A 16-bit word: a port status or enable word, a revision, a voltage or a current. -/
abbrev Half := BitVec 16

/-- A 32-bit word: an active word, an item number or a take number. -/
abbrev Word := BitVec 32

/-- A port number, 0 to 63 (section 0-6-1). -/
abbrev Port := Fin 64

/-- A task slot number, 0 to 31 (section 0-6-1). -/
abbrev Slot := Fin 32

/-- A campaign view number, 0 to 11 (section 0-6-1). -/
abbrev ViewNo := Fin 12

/-- A value of the part clock, in whole seconds (section 0-6-3). -/
abbrev Time := Nat

/-- A moment in milliseconds since cold start (the model's own time, log 2). -/
abbrev Ms := Nat

/-- Every port number in ascending order. -/
def allPorts : List Port := List.finRange 64

/-- Every slot number in ascending order. -/
def allSlots : List Slot := List.finRange 32

/-- Every campaign view number in ascending order. -/
def allViews : List ViewNo := List.finRange 12

end Sys2Proof
end

