-- ==== Sys2Proof/Syntax.lean ====
section
/-! DEFINITION. The commands of the FL64: one constructor of Instr for each row of spec/opcode_table.json,
with the operands the model gives it (the table gives none), and the operands' types. -/

namespace Sys2Proof

/-- The FIT strap's four settings (section 0-5, R1). -/
inductive FitStrap where
  | fit16 | fit32 | fit48 | fit64
deriving DecidableEq, Repr

/-- The BOOTPOL strap's two settings (section 0-5, R90). -/
inductive Bootpol where
  | on | waitMains
deriving DecidableEq, Repr

/-- The six request frames (section 2-2). -/
inductive ReqKind where
  | query | wake | sleep | test | halt | charge
deriving DecidableEq, Repr

/-- The reasons of a REFUSE frame (section 2-2). -/
inductive RefuseReason where
  | busy | unsupported | batteryLow
deriving DecidableEq, Repr

/-- The five flags of a STATUS frame (section 2-2). -/
structure StatusFlags where
  onBattery : Bool
  awake : Bool
  charging : Bool
  batteryFault : Bool
  offHook : Bool
deriving DecidableEq, Repr

/-- The wake conditions of R143. -/
inductive WakeCond where
  | done | port | partEvent | mains
deriving DecidableEq, Repr

/-- The records that are rewritten under a revision (R155). -/
inductive ViewId where
  | port (p : Port)
  | campaign (v : ViewNo)
  | partStatus
deriving DecidableEq, Repr

/-- The read-only active words (section 10-1). -/
inductive ReadOnlyWord where
  | identity | taken | attentionLow | attentionHigh
deriving DecidableEq, Repr

/-- The commands, in the order of spec/opcode_table.json. -/
inductive Instr where
  | coldStart (fit : FitStrap) (boot : Bootpol) (mainsOk : Bool)
  | resetLine
  | partClockTick
  | modeDecision
  | mainsOkFall
  | mainsOkRise
  | lossQualified
  | restoreQualified
  | holdAfterLoss
  | modeTakeFloorCondition
  | budgetTakeMode
  | portTakeMode (p : Port)
  | campaignTakeMode
  | gatewayTakeMode
  | bankSample (volts amps : Half)
  | portTakeCutoffChange (p : Port)
  | portTakeShedLevel (p : Port)
  | gatewayTakeShedLevel
  | envelopeWindowExpiry
  | holdAlarmExpiry
  | portTakeCensusClaim (p : Port)
  | budgetTakeCeiling
  | portTakeLimitMaximum (p : Port)
  | grantQueueServe
  | firstEvaluation (p : Port)
  | terminalAbsent (p : Port)
  | presenceRegained (p : Port)
  | shortBegins (p : Port)
  | shortEnds (p : Port)
  /-- `up` says that a part of a 10 mA unit counts as a whole one (log 21). -/
  | lineCurrentRefresh (p : Port) (up : Bool)
  | trip (p : Port)
  | tripCoolingEnd (p : Port)
  | tripHistoryDrop (p : Port)
  | restartOffTimeEnd (p : Port)
  | dutyOnPhaseEnd (p : Port)
  | dutyFrameEnd (p : Port)
  | pollDue (p : Port)
  | awakeUntilReached (p : Port)
  | testCooldownEnd (p : Port)
  | resultWindowExpiry (p : Port)
  | demandQualified (p : Port)
  | demandSignalLost (p : Port)
  | demandResumed (p : Port)
  | demandEnded (p : Port)
  | requestSendEnd (p : Port)
  | firstWindowClose (p : Port)
  | repeatWindowClose (p : Port)
  /-- A STATUS frame; `good` says that its check value is right (R21). -/
  | statusArrival (p : Port) (good : Bool) (charge : Byte) (volts : Half) (flags : StatusFlags)
  /-- An ACK frame; `echo` is none when it echoes no request kind (R21). -/
  | ackArrival (p : Port) (good : Bool) (echo : Option ReqKind)
  /-- A REFUSE frame; `reason` is none when its reason is unknown (R21). -/
  | refuseArrival (p : Port) (good : Bool) (reason : Option RefuseReason)
  | resultArrival (p : Port) (good : Bool) (start min final : Half) (charge : Byte)
  | portTakeStartClaim (p : Port)
  | portTakeAbortClaim (p : Port)
  /-- The engine takes the oldest report of port `p`, a start answer. -/
  | engineTakeStartAnswer (p : Port)
  | engineTakeItemResult (p : Port)
  | engineTakeItemEnd (p : Port)
  | notBeforeReached (v : ViewNo)
  | engineTakeCancel
  | engineTakeClear
  | portTakeClear (p : Port)
  | portTakeCancel (p : Port)
  | graceEnd
  | gatewayTakeWakeCondition (c : WakeCond)
  /-- The host reads `count` bytes from `addr` upward in one READ transaction; past 0xFFFF in one that has come so
  far. A count of 0 says that the transaction has begun and no data byte has come (log 15). -/
  | spiRead (addr : Nat) (count : Nat)
  | spiUnknownCommand (cmd : Byte)
  | postWrite (v : Word)
  | cancelWrite (v : Word)
  | doneWrite (v : Word)
  | doneEnWrite (v : Word)
  | partEventWrite (v : Word)
  | partEventEnableWrite (v : Word)
  | gatewayWakeCauseWrite (v : Word)
  | portStatusWrite (p : Port) (v : Half)
  | portEnableWrite (p : Port) (v : Half)
  /-- The host writes `bytes` from `addr` upward in one WRITE transaction; past 0xFFFF in one that has come so far. No
  bytes say that the transaction has begun and no data byte has come (log 15). -/
  | plainWrite (addr : Nat) (bytes : List Byte)
  | intakeTake
  | portPoll (p : Port)
  | portWake (p : Port)
  | portSleep (p : Port)
  | portRestart (p : Port)
  | campaign
  | viewRewrite (v : ViewId)
  | grantViewRewrite
  /-- The line current of port `p` is now `ma` milliamperes. -/
  | lineCurrentChange (p : Port) (ma : Int)
  | demandSignalPresent (p : Port)
  | readOnlyWordWrite (w : ReadOnlyWord) (v : Word)
  | spiTransactionEnd
deriving DecidableEq, Repr

end Sys2Proof
end

