-- ==== Sys2Proof/Machine/Memory.lean ====
section
/-! DEFINITION. The exchange memory's plain bytes: cells in one canonical form (addresses strictly rising,
no byte 0 listed), one write of a run of bytes, one read of a byte, and the byte order of the part. -/

namespace Sys2Proof.Machine.Memory

/-- What an unlisted address reads as: every byte is 0 at cold start (R157). -/
def unlisted : Byte := 0

/-- The canonical form: addresses strictly rising and no listed byte equal to an unlisted one. -/
def wf : List Host.Cell → Bool
  | [] => true
  | [c] => c.2 != unlisted
  | c :: d :: rest => c.2 != unlisted && decide (c.1 < d.1) && wf (d :: rest)

/-- The byte at an address. -/
def read : List Host.Cell → Nat → Byte
  | [], _ => unlisted
  | c :: rest, a => if c.1 = a then c.2 else read rest a

/-- The cells of a run of bytes from `a` upward, bytes that read as unlisted left out. -/
def cells (a : Nat) : List Byte → List Host.Cell
  | [] => []
  | b :: rest => if b = unlisted then cells (a + 1) rest else (a, b) :: cells (a + 1) rest

/-- Memory with the run `bytes` written from `a` upward. -/
def write (m : List Host.Cell) (a : Nat) (bytes : List Byte) : List Host.Cell :=
  m.filter (fun c => decide (c.1 < a)) ++ cells a bytes
    ++ m.filter (fun c => decide (a + bytes.length ≤ c.1))

/-- `count` bytes from `a` upward. -/
def run (m : List Host.Cell) (a count : Nat) : List Byte :=
  (List.range count).map fun i => read m (a + i)

/-- One byte of a number. -/
def byte (n : Nat) : Byte := BitVec.ofNat 8 n

/-- A 16-bit field, lowest byte first (section 0-6-2). -/
def le16 (n : Nat) : List Byte := [byte n, byte (n / 256)]

/-- A 32-bit field, lowest byte first. -/
def le32 (n : Nat) : List Byte := [byte n, byte (n / 256), byte (n / 65536), byte (n / 16777216)]

/-- A 64-bit set: the word for ports 0 to 31 first (section 0-6-2). -/
def le64 (n : Nat) : List Byte := le32 (n % 4294967296) ++ le32 (n / 4294967296)

/-- The number that a run of bytes spells, lowest byte first. -/
def number : List Byte → Nat
  | [] => 0
  | b :: rest => b.toNat + 256 * number rest

/-- `n` bytes that carry no field. -/
def zeros (n : Nat) : List Byte := List.replicate n 0

end Sys2Proof.Machine.Memory
end

