-- ==== Sys2Proof/Config.lean ====
section
/-! DEFINITION. The figures the spec fixes, each with its rule, and the strap settings the model's reset
takes (log 3). The spec leaves no value of an operation open, so there is no opaque value here. -/

namespace Sys2Proof.Config

/-- Part code of the identity word (section 12-1). -/
def partCode : Nat := 0x0D64

/-- A request frame takes 200 ms, whatever its kind (R20). -/
def sendMs : Ms := 200

/-- The first answer window closes, and the repeat send begins, at 700 ms (R23). -/
def firstCloseMs : Ms := 700

/-- The repeat window opens at 900 ms (R23). -/
def repeatOpenMs : Ms := 900

/-- The repeat window closes at 1400 ms (R23). -/
def repeatCloseMs : Ms := 1400

/-- Below 2 mA for 10 s a terminal is ABSENT (R6). -/
def absenceMs : Ms := 10000

/-- At 2 mA or more for 2 s a terminal is present again (R7). -/
def presenceMs : Ms := 2000

/-- The current that tells a terminal from an empty line, in mA (R6, R7). -/
def presenceMa : Int := 2

/-- The bias limit, in mA (R8). -/
def biasLimitMa : Int := 60

/-- A short begins, and ends, after 2 s (R8). -/
def shortMs : Ms := 2000

/-- An overcurrent of 50 ms trips the port (R49). -/
def tripMs : Ms := 50

/-- Trip cooling lasts 30 s (R50). -/
def coolingMs : Ms := 30000

/-- A trip counts toward FAULT for 600 s (R50, R51). -/
def tripSpan : Time := 600

/-- The restart off-time is 10 s (R14). -/
def offTimeMs : Ms := 10000

/-- A port makes its first evaluation 5 s after cold start (R2, R55). -/
def firstEvalMs : Ms := 5000

/-- A poll falls due 20 s after bias returns or presence is regained (R10). -/
def firstPoll : Time := 20

/-- A duty frame lasts 120 s (R45). -/
def dutyFrame : Time := 120

/-- One eighth of a duty frame, in seconds (R45). -/
def dutyEighth : Time := 15

/-- A demand signal of 100 ms makes, or resumes, a demand (R34, R35). -/
def demandMs : Ms := 100

/-- An on-hook of 2 s ends a demand (R35). -/
def onHookMs : Ms := 2000

/-- The result window closes 5 s after the test's duration (R129). -/
def resultSlack : Time := 5

/-- A verdict keeps further tests away for 1800 s (R131). -/
def testCooldown : Time := 1800

/-- The mode is decided 500 ms after cold start (R91). -/
def decideMs : Ms := 500

/-- A loss of mains is qualified after 500 ms (R92). -/
def lossMs : Ms := 500

/-- The cutoff condition comes into force after 5 s of low samples (R87). -/
def cutoffEntry : Time := 5

/-- The cutoff condition is lifted after 60 s of high samples (R88). -/
def cutoffLift : Time := 60

/-- The lift voltage stands 1.00 V above the cutoff voltage (R88). -/
def liftMargin : Nat := 100

/-- The envelope window closes at part clock 900 (R102). -/
def windowEnd : Time := 900

/-- 3600 sample-seconds of 10 mA make one charge unit (R58). -/
def unitResidue : Int := 3600

/-- A forced grace lasts 60 s (R141). -/
def forcedGrace : Time := 60

/-- The waiting list holds up to 8 campaigns, the active one counted (R105). -/
def waitingRoom : Nat := 8

/-- The suspension stack holds up to 3 campaigns (R105). -/
def stackRoom : Nat := 3

/-- The byte that stands for an absent port, slot or view number or queue position (R167). -/
def noneByte : Nat := 0xFF

/-- The word that stands for an absent time (R167). -/
def noneTime : Nat := 0xFFFFFFFF

end Sys2Proof.Config
end

