-- ==== Sys2Proof/Machine/Records.lean ====
section
/-! DEFINITION. The records the six kinds of block keep: the port record (chapter 1), line requests
(chapter 2), grants (chapter 4), the mode controller's fields (chapter 6), campaigns (chapter 7), items
(chapter 8), the gateway feed controller's fields (chapter 9) and the exchange port's (chapter 10). Plain data. -/

namespace Sys2Proof.Machine

/-- The three part modes (chapter 6). -/
inductive Mode where
  | mains | outage | hold
deriving DecidableEq, Repr

/-- The sixteen status codes of a task (section 11-1). -/
inductive Status where
  | ok | cancelled | cleared | badKind | badField | noPort | busy | noRoom | locked | badOrder
  | stillActive | wrongState | noAnswer | refused | lifeline | hold
deriving DecidableEq, Repr

/-- The codes of a campaign's result map (R118, section 12-6). -/
inductive ResCode where
  | pending | notInSet | inFlight | passed | failed | woke | refused | noAnswer | noResult
  | abortedDemand | abortedRestart | abortedHold | abortedHost
  | skippedAbsent | skippedSilent | skippedFault | skippedShed | skippedRecent | skippedBusy
  | skippedDemand
deriving DecidableEq, Repr

/-- A task as its owner knows it: the slot and the take number it was taken under (R151, R152). -/
structure TaskRef where
  slot : Slot
  take : Word
deriving DecidableEq, Repr

/-- A moment known both in milliseconds and as a part clock value. -/
structure Stamp where
  ms : Ms
  sec : Time
deriving DecidableEq, Repr

/-! ### Port setup and feed (chapters 1 and 3) -/

/-- Outage policy; DUTY carries its eighths, 1 to 7 (section 1-1). -/
inductive Policy where
  | full | duty (eighths : Nat) | bias
deriving DecidableEq, Repr

inductive FeedWish where
  | auto | forceBias | disabled
deriving DecidableEq, Repr

/-- The eight feed states (section 1-1-2). -/
inductive FeedState where
  | off | cycling | bias | waiting | full | duty | tripped | fault
deriving DecidableEq, Repr

/-- Kinds of grant and request (section 4-4). -/
inductive GrantKind where
  | feed | lifeline
deriving DecidableEq, Repr

/-- A feed target; FULL and DUTY carry their kind (R37). -/
inductive Target where
  | off | fault | cycling | tripped | bias
  | full (kind : GrantKind)
  | duty (eighths : Nat) (kind : GrantKind)
deriving DecidableEq, Repr

/-- Setup group of the port record. -/
structure Setup where
  tier : Nat
  limit : Nat
  policy : Policy
  wish : FeedWish
  pollInterval : Nat
  threshold : Nat
deriving DecidableEq, Repr

/-- A duty frame: its phase, its start, and the eighths it was begun with (R45, R46). -/
structure DutyFrame where
  on : Bool
  start : Time
  eighths : Nat
deriving DecidableEq, Repr

/-- Feed group of the port record. The grant or waiting position stands in the budget unit. -/
structure Feed where
  state : FeedState
  target : Target
  duty : Option DutyFrame
  trips : List Time
  latch : Bool
  cooling : Option Ms
  offTime : Option Ms
  hold : Bool
  started : Bool
  coldDone : Bool
  measured : Half
  /-- The part clock at the last refresh of the measured current (R19). -/
  refreshed : Time
  short : Bool
deriving DecidableEq, Repr

/-! ### Terminal, demand, supervision, battery health (chapters 1, 2, 8) -/

inductive TermState where
  | unknown | absent | asleep | awake | silent | testing
deriving DecidableEq, Repr

/-- Terminal group; `flags` is none while every flag is not reported (a STATUS reports all five at once). -/
structure Terminal where
  state : TermState
  lastAnswer : Option Time
  flags : Option StatusFlags
  charge : Nat
  volts : Half
  awakeUntil : Option Time
  /-- The awake-until time has been reached and its SLEEP is still to be queued (R16). -/
  awakeDue : Bool
deriving DecidableEq, Repr

inductive DemandState where
  | idle | active | ending
deriving DecidableEq, Repr

structure Demand where
  state : DemandState
  start : Option Time
  count : Nat
deriving DecidableEq, Repr

inductive RestartCause where
  | none | cold | silence | host
deriving DecidableEq, Repr

structure Supervision where
  silence : Nat
  restarts : Nat
  cause : RestartCause
  lastRestart : Option Time
  pollDue : Option Time
  /-- A silence restart is deferred (R13). -/
  deferred : Bool
  /-- PORT RESTART tasks waiting for the off-time (R162). -/
  waiting : List TaskRef
deriving DecidableEq, Repr

/-- The last test of the battery health record (R131). -/
structure TestRecord where
  time : Time
  pass : Bool
  start : Half
  min : Half
  final : Half
  charge : Nat
deriving DecidableEq, Repr

structure Battery where
  last : Option TestRecord
  cooldown : Option Time
deriving DecidableEq, Repr

/-! ### Items and line requests (chapters 2 and 8) -/

/-- An item's kind and the parameters of its kind (section 8-1). -/
inductive Work where
  | test (load duration sag endMin : Nat)
  | wake (minutes : Nat)
deriving DecidableEq, Repr

inductive ItemPhase where
  | holding | requested | running | ending | window | closing
deriving DecidableEq, Repr

structure Item where
  num : Word
  view : ViewNo
  work : Work
  phase : ItemPhase
deriving DecidableEq, Repr

/-- The parties a request answers to (section 2-4). -/
inductive Owner where
  | task (t : TaskRef)
  | item (num : Word)
  | awakeUntil
  | poll
  | census
  | feed
  | reset
deriving DecidableEq, Repr

/-- A request's kind with its fields; a WAKE carries the awake duration of the party that asked. -/
inductive Body where
  | query
  | wake (minutes : Nat)
  | sleep
  | test (load duration : Nat)
  | halt
  | charge (code : Nat)
deriving DecidableEq, Repr

structure Request where
  body : Body
  owners : List Owner
deriving DecidableEq, Repr

/-- The four phases of a transaction (section 2-3). -/
inductive TxPhase where
  | firstSend | firstWindow | repeatSend | repeatWindow
deriving DecidableEq, Repr

structure Flight where
  req : Request
  phase : TxPhase
  start : Ms
deriving DecidableEq, Repr

/-- Work group: item, request in flight, line queue and result window. -/
structure Line where
  item : Option Item
  flight : Option Flight
  /-- The owners of the HALT in the HALT place. -/
  halt : Option (List Owner)
  /-- The code of the CHARGE in the CHARGE place. -/
  charge : Option Nat
  /-- The general places, oldest first, at most four. -/
  general : List Request
  /-- The closing moment of the result window while it is open. -/
  window : Option Stamp
deriving DecidableEq, Repr

/-- Reporting group. -/
structure Reporting where
  status : Half
  enable : Half
  rev : Half
deriving DecidableEq, Repr

/-- The port's running timers, each by the moment it started. -/
structure Timers where
  absence : Option Ms
  presence : Option Ms
  short : Option Ms
  shortEnd : Option Ms
  overcur : Option Ms
  qual : Option Ms
  onHook : Option Ms
  resume : Option Ms
deriving DecidableEq, Repr

/-- The inputs the line engine senses. -/
structure Pins where
  current : Int
  signal : Bool
deriving DecidableEq, Repr

/-- Figures of other blocks as this port has last taken them. -/
structure Taken where
  mode : Mode
  shed : Nat
  cutoff : Bool
deriving DecidableEq, Repr

/-- Claims of the intake on a port controller (R158). -/
inductive PortClaim where
  | poll (t : TaskRef)
  | wake (t : TaskRef) (minutes : Nat)
  | sleep (t : TaskRef)
  | restart (t : TaskRef)
  | clear
deriving DecidableEq, Repr

/-- Claims of the campaign engine on a port controller (R116, R137). -/
inductive ItemClaim where
  | start (num : Word) (view : ViewNo) (work : Work)
  | abort (num : Word) (code : ResCode)
deriving DecidableEq, Repr

/-- Reports of a port controller to the campaign engine (R116, R117). -/
inductive Report where
  | answer (num : Word) (skip : Option ResCode)
  | result (num : Word) (code : ResCode)
  | ended (num : Word)
deriving DecidableEq, Repr

/-- Claims handed to the port and not yet taken, oldest first, and its reports not yet taken. -/
structure Boxes where
  modes : List Mode
  sheds : List Nat
  cutoffs : List Bool
  limits : List Nat
  census : Bool
  tasks : List PortClaim
  cancels : List TaskRef
  /-- Cancels taken before the claim of their task (R166). -/
  kept : List TaskRef
  items : List ItemClaim
  out : List Report
deriving DecidableEq, Repr

/-- The port record (section 1-1). -/
structure PortRecord where
  setup : Setup
  feed : Feed
  term : Terminal
  dem : Demand
  sup : Supervision
  bat : Battery
  line : Line
  rep : Reporting
  tim : Timers
  pin : Pins
  got : Taken
  box : Boxes
deriving DecidableEq, Repr

/-! ### The budget unit (chapter 4) -/

structure Grant where
  amount : Nat
  kind : GrantKind
  tier : Nat
  time : Time
  order : Nat
deriving DecidableEq, Repr

structure GrantReq where
  port : Port
  amount : Nat
  kind : GrantKind
  tier : Nat
  arrival : Nat
deriving DecidableEq, Repr

structure Thresholds where
  t3 : Nat
  t2 : Nat
  t1 : Nat
deriving DecidableEq, Repr

structure Budget where
  volts : Half
  amps : Half
  lastSample : Time
  estimate : Option Nat
  capacity : Option Nat
  residue : Int
  thresholds : Option Thresholds
  floor : Nat
  ceiling : Nat
  shed : Nat
  floorCond : Bool
  mode : Mode
  table : Vector (Option Grant) 64
  orders : Nat
  queue : List GrantReq
  arrivals : Nat
  /-- A claim has been taken since the queue was last served (R68). -/
  due : Bool
  grantRev : Half
  modes : List Mode
  /-- New ceilings with the floors that come with them (R103). -/
  ceilings : List (Nat × Nat)
deriving DecidableEq, Repr

/-! ### The mode controller (chapter 6) -/

inductive StartCause where
  | cold | pin
deriving DecidableEq, Repr

inductive LockCause where
  | accepted | expired
deriving DecidableEq, Repr

structure Envelope where
  ceiling : Nat
  floor : Nat
  cutoff : Nat
  limitMax : Nat
  loadMax : Nat
deriving DecidableEq, Repr

inductive CensusState where
  | none | running | done | cut
deriving DecidableEq, Repr

structure Census where
  state : CensusState
  start : Option Time
  asked : Nat
  answered : Nat
  silent : Nat
  lost : Nat
  /-- Census claims that ports have not yet taken. -/
  unanswered : Nat
deriving DecidableEq, Repr

structure ModeCtl where
  clock : Time
  tickMs : Ms
  cause : StartCause
  fit : FitStrap
  boot : Bootpol
  mode : Mode
  decided : Bool
  modeTime : Time
  mainsOk : Bool
  lossTimer : Option Ms
  restoreTimer : Option Stamp
  restoreQual : Nat
  /-- HOLD is the mode controller's next event after the loss just qualified (R92). -/
  holdNext : Bool
  floorTaken : Bool
  holdExits : Nat
  resumed : Bool
  cutoff : Bool
  cutEntry : Option Time
  cutLift : Option Time
  cutTime : Option Time
  env : Envelope
  lock : Option (LockCause × Time)
  alarmHours : Nat
  nextAlarm : Option Time
  census : Census
  floors : List Bool
deriving DecidableEq, Repr

/-! ### The campaign engine (chapter 7) -/

inductive CampState where
  | waiting | running | draining | suspended | resting | ended
deriving DecidableEq, Repr

inductive DrainReason where
  | suspend | rest | mode | cancel
deriving DecidableEq, Repr

/-- An entry of the in-flight set (section 7-1). -/
structure Entry where
  port : Port
  num : Word
  started : Bool
deriving DecidableEq, Repr

structure Totals where
  passed : Nat
  failed : Nat
  woke : Nat
  skipped : Nat
  aborted : Nat
  noResult : Nat
  refused : Nat
deriving DecidableEq, Repr

/-- The plan and parameters of a CAMPAIGN card (section 11-3). -/
structure CampaignPlan where
  work : Work
  priority : Nat
  ports : BitVec 64
  rounds : Nat
  interval : Nat
  concurrency : Nat
  outageOnly : Bool
deriving DecidableEq, Repr

/-- The campaign record (section 7-1). -/
structure Campaign where
  task : TaskRef
  plan : CampaignPlan
  arrival : Nat
  view : ViewNo
  state : CampState
  drain : Option DrainReason
  admitted : Bool
  roundsDone : Nat
  roundStart : Option Time
  cursor : Nat
  flying : List Entry
  notBefore : Option Time
  map : Vector ResCode 64
  totals : Totals
  endStatus : Option Status
deriving DecidableEq, Repr

/-- Claims of the intake on the campaign engine (R158). -/
inductive EngineClaim where
  | campaign (t : TaskRef) (plan : CampaignPlan)
  | clear
deriving DecidableEq, Repr

structure Engine where
  active : Option Campaign
  /-- The suspension stack, top first. -/
  stack : List Campaign
  /-- The waiting list in the order of R107. -/
  waiting : List Campaign
  admission : Nat
  arrivals : Nat
  items : Word
  mode : Mode
  /-- The shed level as last handed over (R61). -/
  shed : Nat
  /-- The campaign last ended under each view number (R124). -/
  ended : Vector (Option Campaign) 12
  modes : List Mode
  claims : List EngineClaim
  cancels : List TaskRef
  /-- Cancels taken before the claim of their campaign (R122). -/
  kept : List TaskRef
deriving DecidableEq, Repr

/-! ### The gateway feed controller (chapter 9) -/

inductive GwState where
  | on | grace | restOff | forcedOff | bootWait
deriving DecidableEq, Repr

inductive GraceKind where
  | voluntary | forced
deriving DecidableEq, Repr

inductive RestType where
  | none | idle | off
deriving DecidableEq, Repr

structure Gateway where
  state : GwState
  grace : Option GraceKind
  graceEnd : Option Time
  rest : RestType
  mask : BitVec 4
  forcing : Bool
  shedLimit : Nat
  graceTime : Nat
  mode : Mode
  shed : Nat
  modes : List Mode
  sheds : List Nat
  wakes : List WakeCond
deriving DecidableEq, Repr

/-! ### The exchange port (chapter 10) -/

/-- The block a TAKEN slot's cancel is forwarded to (R153). -/
inductive SlotOwner where
  | port (p : Port)
  | engine
deriving DecidableEq, Repr

/-- The state of a task slot (section 10-3). -/
inductive SlotState where
  | free
  | posted
  | taken (take : Word) (tag : Half) (owner : SlotOwner) (cancel : Bool)
  | done
deriving DecidableEq, Repr

/-- The SPI slave (R147, R148). -/
inductive Spi where
  | idle
  /-- Cut by the RESET line: the select line is ignored until it is released. -/
  | blocked
  /-- The command was neither READ nor WRITE. -/
  | ignoring
  | reading (next : Nat)
  /-- `word` holds the bytes of the word being written, from its first; `stray` says that STRAY_WRITE
  has been raised for this transaction. -/
  | writing (next : Nat) (word : List Byte) (stray : Bool)
deriving DecidableEq, Repr

structure Exchange where
  mem : List Host.Cell
  slots : Vector SlotState 32
  intake : List Slot
  takeNo : Word
  doneEn : Word
  partEvent : Word
  partEventEn : Word
  wakeCause : Word
  psrRev : Half
  campRev : Vector Half 12
  spi : Spi
  spiOut : List Byte
  attn : Bool
  views : List ViewId
  grantViews : Nat
deriving DecidableEq, Repr

end Sys2Proof.Machine
end

