-- ==== Sys2Proof/Machine/PortRules.lean ====
section
/-! DEFINITION. What follows from a port record alone: bias, the feed decision (chapter 3), lifeline standing
(chapter 5), poll suspension (chapter 1), and what stands in the line queue (chapter 2); and the budget
unit's look-ups of a port's grant and request (chapter 4). -/

namespace Sys2Proof.Machine

/-! ### The budget unit's places -/

/-- The port's place in the grant table (R64). -/
def Budget.grantOf (b : Budget) (p : Port) : Option Grant := b.table[p.val]

/-- The port's request in the grant queue (R66). -/
def Budget.requestOf (b : Budget) (p : Port) : Option GrantReq := b.queue.find? (fun q => q.port == p)

/-- The port's place in the grant queue, 0 for the head (R75). -/
def Budget.placeOf (b : Budget) (p : Port) : Option Nat := b.queue.findIdx? (fun q => q.port == p)

/-- The sum of the amounts in the grant table (R63). -/
def Budget.granted (b : Budget) : Nat :=
  b.table.toList.foldr (fun g n => (match g with | some g => g.amount | none => 0) + n) 0

/-- The pool: the ceiling less the granted sum (R63). -/
def Budget.pool (b : Budget) : Nat := b.ceiling - b.granted

/-! ### Bias and the full-feed path (section 1-1-2) -/

/-- FULL and DUTY, the states under a grant (R42). -/
def FeedState.fed : FeedState → Bool
  | .full | .duty => true
  | .off | .cycling | .bias | .waiting | .tripped | .fault => false

/-- A line has bias in every feed state but OFF and CYCLING. -/
def FeedState.hasBias : FeedState → Bool
  | .off | .cycling => false
  | .bias | .waiting | .full | .duty | .tripped | .fault => true

def PortRecord.hasBias (r : PortRecord) : Bool := r.feed.state.hasBias

/-- The full-feed path is closed in FULL and in the ON phase of a duty frame (R49). -/
def PortRecord.fullClosed (r : PortRecord) : Bool :=
  match r.feed.state with
  | .full => true
  | .duty => match r.feed.duty with
    | some d => d.on
    | none => false
  | _ => false

/-- Bias with the full-feed path open (section 1-1-2). -/
def PortRecord.biasAlone (r : PortRecord) : Bool := r.hasBias && !r.fullClosed

/-- The line engine sends and queues only with bias and a terminal that is not ABSENT (R6, R20, R30). -/
def PortRecord.lineOpen (r : PortRecord) : Bool := r.hasBias && r.term.state != .absent

/-! ### The feed decision (section 3-1) -/

/-- The terminal's last reported on-battery flag is true. -/
def PortRecord.onBattery (r : PortRecord) : Bool :=
  match r.term.flags with
  | some f => f.onBattery
  | none => false

/-- The last reported awake flag is true; false when not reported (R4). -/
def PortRecord.awakeFlag (r : PortRecord) : Bool :=
  match r.term.flags with
  | some f => f.awake
  | none => false

/-- A demand stands while it is ACTIVE or ENDING (R35). -/
def PortRecord.demandStands (r : PortRecord) : Bool := r.dem.state != .idle

/-- Lifeline-eligible (R38). -/
def PortRecord.lifelineEligible (r : PortRecord) : Bool :=
  r.demandStands && (r.got.mode != .mains || r.onBattery) && !r.got.cutoff

/-- Feeding-eligible (R38). -/
def PortRecord.feedingEligible (r : PortRecord) : Bool :=
  (r.got.mode == .outage || (r.got.mode == .mains && r.onBattery)) && !r.got.cutoff
    && r.term.state != .unknown

/-- Shed: the shed level plus the tier is 4 or more (R38). -/
def PortRecord.shed (r : PortRecord) : Bool := decide (4 ≤ r.got.shed + r.setup.tier)

/-- The outage policy as a target of kind FEED (row 9 of R37). -/
def Policy.target : Policy → Target
  | .full => .full .feed
  | .duty e => .duty e .feed
  | .bias => .bias

/-- The row-9 outcome: what rows 9 and 10 alone would give (R39). -/
def PortRecord.row9 (r : PortRecord) : Target :=
  if r.feedingEligible && !r.shed then r.setup.policy.target else .bias

/-- The feed decision table, read from the top (R37). -/
def PortRecord.decision (r : PortRecord) : Target :=
  if r.setup.wish == .disabled then .off
  else if r.feed.latch then .fault
  else if r.feed.offTime.isSome then .cycling
  else if r.feed.cooling.isSome then .tripped
  else if r.term.state == .absent then .bias
  else if r.lifelineEligible then .full .lifeline
  else if r.feed.hold then .bias
  else if r.setup.wish == .forceBias then .bias
  else r.row9

/-! ### Lifeline standing (R79) -/

inductive Standing where
  | none | fault | cooling | cutoff | onMains | fed | waiting
deriving DecidableEq, Repr

/-- The lifeline standing of a port; `grant` and `req` are its places at the budget unit (R79). -/
def PortRecord.standing (r : PortRecord) (grant : Option Grant) (req : Option GrantReq) : Standing :=
  if !r.demandStands then .none
  else if r.feed.latch then .fault
  else if r.feed.cooling.isSome then .cooling
  else if r.got.cutoff then .cutoff
  else if r.got.mode == .mains && !r.onBattery then .onMains
  else if grant.any (fun g => g.kind == .lifeline) then .fed
  else if req.any (fun q => q.kind == .lifeline) then .waiting
  else .none

/-- Standings counted as unserved (R79). -/
def Standing.unserved : Standing → Bool
  | .fault | .cooling | .cutoff | .waiting => true
  | .none | .onMains | .fed => false

/-! ### Requests and the line queue (chapter 2) -/

def Body.kind : Body → ReqKind
  | .query => .query
  | .wake _ => .wake
  | .sleep => .sleep
  | .test .. => .test
  | .halt => .halt
  | .charge _ => .charge

def Owner.isTask : Owner → Bool
  | .task _ => true
  | _ => false

/-- A poll QUERY: its owners include a poll and are otherwise censuses (R30). -/
def Request.isPollQuery (q : Request) : Bool :=
  q.body == .query && q.owners.contains .poll && q.owners.all (fun o => o == .poll || o == .census)

/-- A census QUERY: its owners are censuses only (R30). -/
def Request.isCensusQuery (q : Request) : Bool :=
  q.body == .query && !q.owners.isEmpty && q.owners.all (fun o => o == .census)

/-- Poll and census QUERYs yield to every other request (R31). -/
def Request.yields (q : Request) : Bool := q.isPollQuery || q.isCensusQuery

/-- The requests of the general places and the one in flight. -/
def Line.requests (l : Line) : List Request :=
  (match l.flight with | some f => [f.req] | none => []) ++ l.general

/-- A general place is available: one of the four is free, or one holds a poll QUERY (R16, R127). -/
def Line.placeAvailable (l : Line) : Bool :=
  decide (l.general.length < 4) || l.general.any Request.isPollQuery

/-- A QUERY of any origin is queued or in flight (R9, R30). -/
def Line.hasQuery (l : Line) : Bool := l.requests.any (fun q => q.body == .query)

/-- A host request is queued or in flight (R127, check 6). -/
def Line.hasHostRequest (l : Line) : Bool := l.requests.any (fun q => q.owners.any Owner.isTask)

/-- Polling is suspended (R10). -/
def PortRecord.pollSuspended (r : PortRecord) : Bool :=
  r.term.state == .absent || r.term.state == .testing || !r.hasBias || r.got.mode == .hold

/-! ### Codes of the result map (R118) -/

/-- Every code but PENDING, NOT_IN_SET and IN_FLIGHT is final (R118). -/
def ResCode.final : ResCode → Bool
  | .pending | .notInSet | .inFlight => false
  | _ => true

/-- FIT's port counts (R1). -/
def fitCount (f : FitStrap) : Nat :=
  match f with
  | .fit16 => 16
  | .fit32 => 32
  | .fit48 => 48
  | .fit64 => 64

end Sys2Proof.Machine
end

