-- ==== Sys2Proof/Machine/Layouts.lean ====
section
/-! DEFINITION. The byte layouts of everything the part writes (chapter 12): codes, the port view, the
campaign view, the part status record, the grant view, the queue order list and the result half. -/

namespace Sys2Proof.Machine
open Memory

/-! ### Codes (sections 12-1 to 12-6) -/

def Mode.code : Mode → Nat
  | .mains => 1 | .outage => 2 | .hold => 3

def Status.code : Status → Nat
  | .ok => 1 | .cancelled => 2 | .cleared => 3 | .badKind => 4 | .badField => 5 | .noPort => 6
  | .busy => 7 | .noRoom => 8 | .locked => 9 | .badOrder => 10 | .stillActive => 11
  | .wrongState => 12 | .noAnswer => 13 | .refused => 14 | .lifeline => 15 | .hold => 16

def ResCode.code : ResCode → Nat
  | .pending => 0 | .notInSet => 1 | .inFlight => 2 | .passed => 3 | .failed => 4 | .woke => 5
  | .refused => 6 | .noAnswer => 7 | .noResult => 8 | .abortedDemand => 9 | .abortedRestart => 10
  | .abortedHold => 11 | .abortedHost => 12 | .skippedAbsent => 13 | .skippedSilent => 14
  | .skippedFault => 15 | .skippedShed => 16 | .skippedRecent => 17 | .skippedBusy => 18
  | .skippedDemand => 19

def Policy.code : Policy → Nat
  | .full => 0 | .duty _ => 1 | .bias => 2

/-- The eighths of a DUTY policy; no field for the others. -/
def Policy.eighths : Policy → Nat
  | .duty e => e
  | .full | .bias => 0

def FeedWish.code : FeedWish → Nat
  | .auto => 0 | .forceBias => 1 | .disabled => 2

def FeedState.code : FeedState → Nat
  | .off => 0 | .cycling => 1 | .bias => 2 | .waiting => 3 | .full => 4 | .duty => 5
  | .tripped => 6 | .fault => 7

def TermState.code : TermState → Nat
  | .unknown => 0 | .absent => 1 | .asleep => 2 | .awake => 3 | .silent => 4 | .testing => 5

def DemandState.code : DemandState → Nat
  | .idle => 0 | .active => 1 | .ending => 2

def Standing.code : Standing → Nat
  | .none => 0 | .fault => 1 | .cooling => 2 | .cutoff => 3 | .onMains => 4 | .fed => 5 | .waiting => 6

def RestartCause.code : RestartCause → Nat
  | .none => 0 | .cold => 1 | .silence => 2 | .host => 3

def GrantKind.code : GrantKind → Nat
  | .feed => 1 | .lifeline => 2

def ItemPhase.code : ItemPhase → Nat
  | .holding => 1 | .requested => 2 | .running => 3 | .ending => 4 | .window => 5 | .closing => 6

def Work.code : Work → Nat
  | .test .. => 1 | .wake _ => 2

def reqCode : ReqKind → Nat
  | .query => 1 | .wake => 2 | .sleep => 3 | .test => 4 | .halt => 5 | .charge => 6

def refuseCode : RefuseReason → Nat
  | .busy => 1 | .unsupported => 2 | .batteryLow => 3

def StartCause.code : StartCause → Nat
  | .cold => 1 | .pin => 2

def bootCode : Bootpol → Nat
  | .on => 1 | .waitMains => 2

def LockCause.code : LockCause → Nat
  | .accepted => 1 | .expired => 2

def CensusState.code : CensusState → Nat
  | .none => 0 | .running => 1 | .done => 2 | .cut => 3

def GwState.code : GwState → Nat
  | .on => 1 | .grace => 2 | .restOff => 3 | .forcedOff => 4 | .bootWait => 5

def GraceKind.code : GraceKind → Nat
  | .voluntary => 1 | .forced => 2

def RestType.code : RestType → Nat
  | .none => 0 | .idle => 1 | .off => 2

def CampState.code : CampState → Nat
  | .waiting => 1 | .running => 2 | .draining => 3 | .suspended => 4 | .resting => 5 | .ended => 6

def DrainReason.code : DrainReason → Nat
  | .suspend => 1 | .rest => 2 | .mode => 3 | .cancel => 4

/-- A time, or the none value (R167). -/
def optTime (t : Option Time) : List Byte := le32 (t.getD Config.noneTime)

/-- A bit of a flags byte. -/
def flag (b : Bool) (n : Nat) : Nat := if b then 2 ^ n else 0

/-- The five reported flags, bits as in section 12-4. -/
def flagsByte (f : StatusFlags) : Nat :=
  flag f.onBattery 0 + flag f.awake 1 + flag f.charging 2 + flag f.batteryFault 3 + flag f.offHook 4

/-! ### Port view (section 12-5) -/

/-- Bytes 10 to 21: the states, the place at the budget unit and the duty frame. -/
def portFeedBytes (r : PortRecord) (b : Budget) (p : Port) : List Byte :=
  let kind := match b.grantOf p, b.requestOf p with
    | some g, _ => g.kind.code
    | none, some q => q.kind.code
    | none, none => 0
  let amount := match b.grantOf p, b.requestOf p with
    | some g, _ => g.amount
    | none, some q => q.amount
    | none, none => 0
  let place := match b.grantOf p with
    | some _ => Config.noneByte
    | none => (b.placeOf p).getD Config.noneByte
  let phase := match r.feed.duty with
    | some d => if d.on then 1 else 2
    | none => 0
  [byte r.feed.state.code, byte r.term.state.code, byte r.dem.state.code,
    byte (r.standing (b.grantOf p) (b.requestOf p)).code,
    byte kind, byte amount, byte place, byte phase]
    ++ optTime (r.feed.duty.map (·.start))

/-- Bytes 22 to 43: trips, flags, measured current, the last report and the silence count. -/
def portTermBytes (r : PortRecord) : List Byte :=
  [byte r.feed.trips.length, byte (flag r.feed.short 0 + flag r.feed.latch 1)]
    ++ (((r.feed.trips.take 3).flatMap le32) ++ zeros 12).take 12
    ++ le16 r.feed.measured.toNat
    ++ [byte r.term.charge, byte ((r.term.flags.map flagsByte).getD 0),
        byte (if r.term.flags.isSome then 31 else 0), byte r.sup.silence]
    ++ le16 r.term.volts.toNat

/-- Bytes 44 to 67: times and counts of the terminal, the demand and supervision. -/
def portTimeBytes (r : PortRecord) : List Byte :=
  optTime r.term.lastAnswer ++ optTime r.term.awakeUntil ++ optTime r.dem.start
    ++ [byte r.dem.count, byte r.sup.cause.code] ++ le16 r.sup.restarts
    ++ optTime r.sup.lastRestart ++ optTime r.sup.pollDue

/-- Bytes 68 to 83: the battery health record. -/
def portBatteryBytes (r : PortRecord) : List Byte :=
  (match r.bat.last with
    | some t => [byte (if t.pass then 1 else 2), byte t.charge] ++ le32 t.time
        ++ le16 t.start.toNat ++ le16 t.min.toNat ++ le16 t.final.toNat
    | none => [0, 0] ++ le32 Config.noneTime ++ zeros 6)
    ++ optTime r.bat.cooldown

/-- Bytes 84 to 93: the item and the line. -/
def portWorkBytes (r : PortRecord) : List Byte :=
  (match r.line.item with
    | some i => [byte i.view.val, byte i.work.code, byte i.phase.code]
    | none => [byte Config.noneByte, 0, 0])
    ++ [byte r.line.general.length] ++ optTime (r.line.window.map (·.sec))
    ++ [byte ((r.line.flight.map fun f => reqCode f.req.body.kind).getD 0), 0]

/-- Bytes 2 to 125 of the port view. -/
def portFields (r : PortRecord) (b : Budget) (p : Port) : List Byte :=
  [byte r.setup.tier, byte r.setup.limit, byte r.setup.policy.code, byte r.setup.policy.eighths,
    byte r.setup.wish.code, byte r.setup.threshold] ++ le16 r.setup.pollInterval
    ++ portFeedBytes r b p ++ portTermBytes r ++ portTimeBytes r ++ portBatteryBytes r
    ++ portWorkBytes r ++ zeros 32

/-! ### Campaign view (section 12-6) -/

def Totals.list (t : Totals) : List Nat :=
  [t.passed, t.failed, t.woke, t.skipped, t.aborted, t.noResult, t.refused]

def Work.load : Work → Nat
  | .test l _ _ _ => l | .wake _ => 0
def Work.duration : Work → Nat
  | .test _ d _ _ => d | .wake _ => 0
def Work.sag : Work → Nat
  | .test _ _ s _ => s | .wake _ => 0
def Work.endMin : Work → Nat
  | .test _ _ _ e => e | .wake _ => 0
def Work.minutes : Work → Nat
  | .test .. => 0 | .wake m => m

/-- The ports of the in-flight set as a 64-bit set. -/
def flyingSet (l : List Entry) : BitVec 64 := l.foldr (fun e b => BitVec.twoPow 64 e.port.val ||| b) 0

/-- Bytes 2 to 125 of a campaign view. -/
def campFields (c : Campaign) : List Byte :=
  [byte c.task.slot.val, byte c.plan.work.code, byte c.plan.priority,
    byte (c.state.code + 16 * (c.drain.map DrainReason.code).getD 0),
    byte (flag c.admitted 0 + flag c.plan.outageOnly 1), byte c.plan.rounds, byte c.roundsDone,
    byte c.plan.concurrency, byte c.cursor, byte c.plan.work.load, byte c.plan.work.minutes,
    byte ((c.endStatus.map Status.code).getD 0)]
    ++ le16 c.plan.interval ++ le16 c.plan.work.duration ++ le16 c.plan.work.sag
    ++ le16 c.plan.work.endMin ++ le16 c.arrival ++ optTime c.roundStart ++ optTime c.notBefore
    ++ le64 c.plan.ports.toNat ++ le64 (flyingSet c.flying).toNat ++ c.totals.list.flatMap le16
    ++ c.map.toList.map (fun k => byte k.code)

/-! ### Part status record (section 12-1) -/

/-- A view number's byte, or none. -/
def viewByte (v : Option ViewNo) : Byte := byte ((v.map Fin.val).getD Config.noneByte)

/-- View numbers of a list of campaigns, 0xFF beyond the count, `n` bytes in all. -/
def viewBytes (l : List Campaign) (n : Nat) : List Byte :=
  ((l.map fun c => byte c.view.val) ++ List.replicate n (byte Config.noneByte)).take n

/-- 0x42 to 0x4D: clock, mode and flags. -/
def psrModeBytes (mc : ModeCtl) (bu : Budget) (gw : Gateway) : List Byte :=
  le32 mc.clock ++ [byte mc.mode.code, byte mc.cause.code, byte (bootCode mc.boot),
    byte (flag bu.estimate.isSome 0 + flag bu.thresholds.isSome 1 + flag bu.floorCond 2
      + flag mc.mainsOk 3 + flag mc.resumed 4 + flag mc.cutoff 5 + flag gw.forcing 6)]
    ++ le32 mc.modeTime

/-- 0x4E to 0x67: the budget unit's fields (R77). The ceiling and the floor, which R104 lists among the mode
controller's too, are shown as the budget unit has taken them (DESIGN CHOICE, log 33). -/
def psrBudgetBytes (bu : Budget) : List Byte :=
  le16 bu.volts.toNat ++ le16 bu.amps.toNat ++ le16 (bu.estimate.getD 0) ++ le16 (bu.capacity.getD 0)
    ++ (match bu.thresholds with
      | some t => le16 t.t3 ++ le16 t.t2 ++ le16 t.t1
      | none => zeros 6)
    ++ le16 bu.floor ++ le16 bu.ceiling ++ le16 bu.granted ++ le16 bu.pool
    ++ [byte bu.queue.length, byte bu.shed] ++ le16 bu.grantRev.toNat

/-- 0x68 to 0x8B: the mode controller's fields (R104). -/
def psrEnvBytes (mc : ModeCtl) : List Byte :=
  le16 mc.env.cutoff ++ [byte mc.env.limitMax, byte mc.env.loadMax,
    byte (if mc.lock.isSome then 2 else 1), byte ((mc.lock.map (·.1.code)).getD 0)]
    ++ optTime (mc.lock.map (·.2)) ++ optTime (mc.restoreTimer.map (·.sec)) ++ le16 mc.restoreQual
    ++ le16 mc.holdExits ++ optTime mc.cutTime ++ [byte mc.alarmHours, byte mc.census.state.code]
    ++ optTime mc.nextAlarm ++ optTime mc.census.start
    ++ [byte mc.census.asked, byte mc.census.answered, byte mc.census.silent, byte mc.census.lost]

/-- 0x8C to 0xFD: the campaign engine's (R125) and the gateway feed controller's (R146) fields, and the
counts of demands (R79). -/
def psrEngineBytes (ce : Engine) (gw : Gateway) (standing unserved : Nat) : List Byte :=
  [byte ce.admission, viewByte (ce.active.map (·.view)), byte ce.stack.length] ++ viewBytes ce.stack 3
    ++ [byte ce.waiting.length] ++ viewBytes ce.waiting 8
    ++ [byte gw.state.code, byte ((gw.grace.map GraceKind.code).getD 0), byte gw.rest.code,
      byte gw.mask.toNat, byte gw.shedLimit, byte gw.graceTime, byte standing, byte unserved, 0]
    ++ optTime gw.graceEnd ++ zeros 86

/-- Addresses 0x42 to 0xFD of the part status record. -/
def psrFields (mc : ModeCtl) (bu : Budget) (ce : Engine) (gw : Gateway) (standing unserved : Nat) :
    List Byte :=
  psrModeBytes mc bu gw ++ psrBudgetBytes bu ++ psrEnvBytes mc ++ psrEngineBytes ce gw standing unserved

/-- A record between its two revision copies (R155). -/
def stamped (rev : Half) (fields : List Byte) : List Byte :=
  le16 rev.toNat ++ fields ++ le16 rev.toNat

/-! ### Grant view and queue order list (R75, R76) -/

/-- A port's grant view entry (section 12-2). -/
def grantEntry (b : Budget) (p : Port) : List Byte :=
  match b.grantOf p, b.requestOf p with
  | some g, _ => [byte g.kind.code, byte g.amount, byte Config.noneByte, 0]
  | none, some q =>
    [byte q.kind.code, byte q.amount, byte ((b.placeOf p).getD Config.noneByte), 0]
  | none, none => [0, 0, byte Config.noneByte, 0]

/-- The grant view, 0x0200 to 0x02FF. -/
def grantView (b : Budget) : List Byte := allPorts.flatMap (grantEntry b)

/-- The queue order list, 0x0300 to 0x033F (R76). -/
def queueList (b : Budget) : List Byte :=
  ((b.queue.map fun q => byte q.port.val) ++ List.replicate 64 (byte Config.noneByte)).take 64

/-! ### Result halves (section 12-4) -/

/-- The 64 bytes of a result half (R152). -/
def resultHalf (st : Status) (tag : Half) (time : Time) (fields : List Byte) : List Byte :=
  ([byte st.code, 0] ++ le16 tag.toNat ++ le32 time ++ fields ++ zeros 64).take 64

/-! ### Addresses (section 10-1) -/

def psrBase : Nat := 0x40
def grantBase : Nat := 0x200
def queueBase : Nat := 0x300
def slotBase (s : Slot) : Nat := 0x400 + 128 * s.val
def resultBase (s : Slot) : Nat := slotBase s + 64
def portViewBase (p : Port) : Nat := 0x1400 + 128 * p.val
def campViewBase (v : ViewNo) : Nat := 0x3400 + 128 * v.val

end Sys2Proof.Machine
end

