-- ==== Sys2Proof/Machine/Cold.lean ====
section
/-! DEFINITION. What every block holds right after a cold start (R2, R32, R36, R55, R57, R60, R63, R64, R66,
R77, R87, R90, R99, R100, R102, R104, R125, R139, R145, R157). -/

namespace Sys2Proof.Machine

/-- The port record at cold start (R2, R55); the view revision is set by `coldPort`. -/
def blankPort : PortRecord where
  setup := { tier := 2, limit := 25, policy := .full, wish := .auto, pollInterval := 300, threshold := 3 }
  feed := { state := .off, target := .off, duty := none, trips := [], latch := false, cooling := none,
            offTime := none, hold := false, started := false, coldDone := false, measured := 0,
            refreshed := 0, short := false }
  term := { state := .unknown, lastAnswer := none, flags := none, charge := 0, volts := 0,
            awakeUntil := none, awakeDue := false }
  dem := { state := .idle, start := none, count := 0 }
  sup := { silence := 0, restarts := 0, cause := .none, lastRestart := none, pollDue := none,
           deferred := false, waiting := [] }
  bat := { last := none, cooldown := none }
  line := { item := none, flight := none, halt := none, charge := none, general := [], window := none }
  rep := { status := 0, enable := 0, rev := 0 }
  tim := { absence := none, presence := none, short := none, shortEnd := none, overcur := none,
           qual := none, onHook := none, resume := none }
  pin := { current := 0, signal := false }
  got := { mode := .mains, shed := 0, cutoff := false }
  box := { modes := [], sheds := [], cutoffs := [], limits := [], census := false, tasks := [],
           cancels := [], kept := [], items := [], out := [] }

/-- A fitted port's first view is written under revision 1; an unfitted port has none (R1, R157). -/
def coldPort (fit : FitStrap) (p : Port) : PortRecord :=
  if p.val < fitCount fit then { blankPort with rep := { blankPort.rep with rev := 1 } } else blankPort

/-- The envelope's defaults (R102). -/
def defaultEnvelope : Envelope :=
  { ceiling := 800, floor := 0, cutoff := 4320, limitMax := 40, loadMax := 10 }

def noCensus : Census :=
  { state := .none, start := none, asked := 0, answered := 0, silent := 0, lost := 0, unanswered := 0 }

/-- The mode controller at cold start (R90, R91, R104). -/
def coldMode (fit : FitStrap) (boot : Bootpol) (mainsOk : Bool) : ModeCtl where
  clock := 0
  tickMs := 0
  cause := .cold
  fit := fit
  boot := boot
  mode := .mains
  decided := false
  modeTime := 0
  mainsOk := mainsOk
  lossTimer := none
  restoreTimer := none
  restoreQual := 60
  holdNext := false
  floorTaken := false
  holdExits := 0
  resumed := false
  cutoff := false
  cutEntry := none
  cutLift := none
  cutTime := none
  env := defaultEnvelope
  lock := none
  alarmHours := 0
  nextAlarm := none
  census := noCensus
  floors := []

/-- The budget unit at cold start (R57, R60, R63, R64, R66, R77). -/
def coldBudget : Budget where
  volts := 0
  amps := 0
  lastSample := 0
  estimate := none
  capacity := none
  residue := 0
  thresholds := none
  floor := 0
  ceiling := 800
  shed := 0
  floorCond := false
  mode := .mains
  table := Vector.replicate 64 none
  orders := 0
  queue := []
  arrivals := 0
  due := false
  grantRev := 0
  modes := []
  ceilings := []

/-- The campaign engine at cold start (R125). -/
def coldEngine : Engine where
  active := none
  stack := []
  waiting := []
  admission := 0
  arrivals := 0
  items := 0
  mode := .mains
  shed := 0
  ended := Vector.replicate 12 none
  modes := []
  claims := []
  cancels := []
  kept := []

/-- The gateway feed controller at cold start (R139). -/
def coldGateway (boot : Bootpol) : Gateway where
  state := match boot with
    | .on => .on
    | .waitMains => .bootWait
  grace := none
  graceEnd := none
  rest := .none
  mask := 0
  forcing := false
  shedLimit := 3
  graceTime := 30
  mode := .mains
  shed := 0
  modes := []
  sheds := []
  wakes := []

/-- The BOOT bit of the gateway wake cause word (section 12-1). -/
def bootBit : Word := 0x20#32

/-- The plain memory at cold start: the port views of the fitted ports and the part status record under
revision 1, the grant view and the queue order list, and zero everywhere else (R157). -/
def coldMemory (fit : FitStrap) (boot : Bootpol) (mainsOk : Bool) : List Host.Cell :=
  let psr := Memory.write [] psrBase
    (stamped 1 (psrFields (coldMode fit boot mainsOk) coldBudget coldEngine (coldGateway boot) 0 0))
  let grants := Memory.write (Memory.write psr grantBase (grantView coldBudget)) queueBase
    (queueList coldBudget)
  (allPorts.filter fun p => decide (p.val < fitCount fit)).foldl
    (fun m p => Memory.write m (portViewBase p) (stamped 1 (portFields (coldPort fit p) coldBudget p)))
    grants

/-- The exchange port at cold start (R157), with BOOT set where BOOTPOL calls for it (R139) and ATTN as
its sources give (R156). -/
def coldExchange (fit : FitStrap) (boot : Bootpol) (mainsOk : Bool) : Exchange where
  mem := coldMemory fit boot mainsOk
  slots := Vector.replicate 32 .free
  intake := []
  takeNo := 0
  doneEn := 0
  partEvent := 0
  partEventEn := 0
  wakeCause := match boot with
    | .on => bootBit
    | .waitMains => 0
  psrRev := 1
  campRev := Vector.replicate 12 0
  spi := .idle
  spiOut := []
  attn := match boot with
    | .on => true
    | .waitMains => false
  views := []
  grantViews := 0

end Sys2Proof.Machine
end

