-- ==== Sys2Proof/Machine/State.lean ====
section
/-! DEFINITION. The state of the FL64: the six kinds of block, the model's time and the queue of waiting
commands; why a step could stop; and the state right after a cold start. -/

namespace Sys2Proof.Machine

/-- Why the machine could stop with a fault. The spec gives the part no such stop, and every command has an
effect or none, so no step raises one. Safe: it adds no behaviour. -/
inductive Fault where
  /-- Raised by nobody: the spec names no condition in which the part stops (log 1). Safe. -/
  | partStopped
deriving DecidableEq, Repr

/-- Why the model could give a command no meaning. -/
inductive Refusal where
  /-- Raised by exec's arm of a command that has no meaning yet (none now). Safe. -/
  | notModelled (mnemonic : String)
deriving DecidableEq, Repr

structure State where
  /-- Milliseconds since cold start (log 2). -/
  ms : Ms
  /-- Commands waiting, first in, first out. -/
  pending : List Instr
  /-- Mode controller. -/
  mc : ModeCtl
  /-- Budget unit. -/
  bu : Budget
  /-- Campaign engine. -/
  ce : Engine
  /-- Gateway feed controller. -/
  gw : Gateway
  /-- Port controllers with their port records. -/
  ports : Vector PortRecord 64
  /-- Exchange port. -/
  ex : Exchange
deriving DecidableEq, Repr

/-- What a step answers. -/
abbrev Out := Host.Outcome State Fault Refusal

/-- The state a cold start leaves, with `pending` left to the caller. -/
def State.cold (fit : FitStrap) (boot : Bootpol) (mainsOk : Bool) (pending : List Instr) : State where
  ms := 0
  pending := pending
  mc := coldMode fit boot mainsOk
  bu := coldBudget
  ce := coldEngine
  gw := coldGateway boot
  ports := Vector.ofFn (coldPort fit)
  ex := coldExchange fit boot mainsOk

/-- The machine right after reset: a cold start with FIT at 16 ports, BOOTPOL ON and mains present
(DESIGN CHOICE, log 3: the straps and MAINS_OK are the installer's; COLD_START carries any of them). -/
def State.reset : State := State.cold .fit16 .on true []

end Sys2Proof.Machine
end

