-- ==== Sys2Proof/Machine/Ops.lean ====
section
/-! DEFINITION. The named accessors and updaters of State, and the small operations on a port record that
every family uses. -/

namespace Sys2Proof.Machine

/-! ### One accessor and one updater for each part of the state -/

def State.port (s : State) (p : Port) : PortRecord := s.ports[p.val]

def State.setPort (s : State) (p : Port) (r : PortRecord) : State :=
  { s with ports := s.ports.set p.val r }

/-- The port's record changed by `f`. -/
def State.onPort (s : State) (p : Port) (f : PortRecord → PortRecord) : State :=
  s.setPort p (f (s.port p))

/-- Every fitted port's record changed by `f`. -/
def State.onFitted (s : State) (f : PortRecord → PortRecord) : State :=
  { s with ports := Vector.ofFn fun p : Port =>
      if p.val < fitCount s.mc.fit then f (s.port p) else s.port p }

def State.setMc (s : State) (m : ModeCtl) : State := { s with mc := m }
def State.setBu (s : State) (b : Budget) : State := { s with bu := b }
def State.setCe (s : State) (c : Engine) : State := { s with ce := c }
def State.setGw (s : State) (g : Gateway) : State := { s with gw := g }
def State.setEx (s : State) (e : Exchange) : State := { s with ex := e }

/-- The part clock (R90). -/
def State.clock (s : State) : Time := s.mc.clock

/-- A fitted port (R1). -/
def State.fitted (s : State) (p : Port) : Bool := decide (p.val < fitCount s.mc.fit)

/-- The fitted ports in ascending order. -/
def State.fittedPorts (s : State) : List Port := allPorts.filter s.fitted

/-- The standing of a port (R79). -/
def State.standing (s : State) (p : Port) : Standing :=
  (s.port p).standing (s.bu.grantOf p) (s.bu.requestOf p)

/-- The number of ports whose standing is not NONE (R79). -/
def State.standingDemands (s : State) : Nat :=
  (s.fittedPorts.filter fun p => s.standing p != .none).length

/-- The number of ports whose standing is FAULT, COOLING, CUTOFF or WAITING (R79). -/
def State.unservedDemands (s : State) : Nat :=
  (s.fittedPorts.filter fun p => (s.standing p).unserved).length

/-! ### Timers -/

/-- A running timer has been running for `span` milliseconds. -/
def ranFor (t : Option Ms) (now span : Ms) : Bool :=
  match t with
  | some t0 => decide (t0 + span ≤ now)
  | none => false

/-- An optional time has been reached by the part clock. -/
def reached (t : Option Time) (clock : Time) : Bool :=
  match t with
  | some t0 => decide (t0 ≤ clock)
  | none => false

/-- A timer that runs exactly while its condition holds: it keeps its start, starts now, or stops. -/
def runWhile (cond : Bool) (now : Ms) (t : Option Ms) : Option Ms :=
  if cond then some (t.getD now) else none

/-- A count that stays at `top` once there. -/
def countUp (n top : Nat) : Nat := min (n + 1) top

/-- The port's sensing timers as its conditions at `now` give them: absence (R6), presence (R7), short and
end of short (R8), overcurrent (R49), qualification (R34), on-hook and resume (R35). -/
def PortRecord.settleTimers (now : Ms) (r : PortRecord) : PortRecord :=
  { r with tim :=
    { absence := runWhile (r.hasBias && r.term.state != .absent && decide (r.pin.current < Config.presenceMa))
        now r.tim.absence
      presence := runWhile (r.hasBias && r.term.state == .absent && decide (Config.presenceMa ≤ r.pin.current))
        now r.tim.presence
      short := runWhile (r.biasAlone && !r.feed.short && decide (Config.biasLimitMa ≤ r.pin.current))
        now r.tim.short
      shortEnd := runWhile (r.biasAlone && r.feed.short && decide (r.pin.current < Config.biasLimitMa))
        now r.tim.shortEnd
      overcur := runWhile (r.fullClosed && decide ((10 * r.setup.limit : Int) < r.pin.current))
        now r.tim.overcur
      qual := runWhile (r.dem.state == .idle && r.lineOpen && r.pin.signal) now r.tim.qual
      onHook := runWhile (r.dem.state == .ending && !r.pin.signal) now r.tim.onHook
      resume := runWhile (r.dem.state == .ending && r.pin.signal) now r.tim.resume } }

/-- No timer of the line runs: bias has been removed (R6, R7, R8, R14, R36, R49). -/
def stoppedTimers : Timers :=
  { absence := none, presence := none, short := none, shortEnd := none, overcur := none, qual := none,
    onHook := none, resume := none }

/-! ### The line queue (section 2-5) -/

/-- The CHARGE place takes the code, replacing a queued one; with no bias or an ABSENT terminal the CHARGE
is dropped (R29). -/
def PortRecord.handCharge (code : Nat) (r : PortRecord) : PortRecord :=
  if r.lineOpen then { r with line := { r.line with charge := some code } } else r

/-- A HALT merges with a queued HALT, else with a HALT in flight, else takes the HALT place; it is dropped
with no bias or an ABSENT terminal (R28). -/
def PortRecord.handHalt (owner : Owner) (r : PortRecord) : PortRecord :=
  if !r.lineOpen then r
  else match r.line.halt with
    | some os => { r with line := { r.line with halt := some (os ++ [owner]) } }
    | none => match r.line.flight with
      | some f =>
        if f.req.body == .halt then
          { r with line := { r.line with
              flight := some { f with req := { f.req with owners := f.req.owners ++ [owner] } } } }
        else { r with line := { r.line with halt := some [owner] } }
      | none => { r with line := { r.line with halt := some [owner] } }

/-- The request added as an owner to a QUERY already on the line: the one in flight, else the oldest queued
(log 10). -/
def Line.mergeQuery (owner : Owner) (l : Line) : Line :=
  match l.flight with
  | some f =>
    if f.req.body == .query then
      { l with flight := some { f with req := { f.req with owners := f.req.owners ++ [owner] } } }
    else { l with general := addFirst l.general }
  | none => { l with general := addFirst l.general }
where
  addFirst : List Request → List Request
    | [] => []
    | q :: rest =>
      if q.body == .query then { q with owners := q.owners ++ [owner] } :: rest
      else q :: addFirst rest

/-- One owner removed from a request. -/
def Request.drop (gone : Owner → Bool) (q : Request) : Request :=
  { q with owners := q.owners.filter fun o => !gone o }

/-- Owners let go of their requests: a queued request left with none leaves its place, one in flight runs
on (R27). -/
def Line.letGo (gone : Owner → Bool) (l : Line) : Line :=
  { l with
    general := (l.general.map (Request.drop gone)).filter fun q => !q.owners.isEmpty
    flight := l.flight.map fun f => { f with req := f.req.drop gone } }

/-- The request begun: it leaves its place and its first send starts now. A TEST of the current item takes
the item from HOLDING to REQUESTED (R20, R129, R31). -/
def PortRecord.begin (now : Ms) (q : Request) (r : PortRecord) : PortRecord :=
  let item := match r.line.item with
    | some i =>
      if q.body.kind == .test && q.owners.contains (.item i.num) then some { i with phase := .requested }
      else some i
    | none => none
  { r with line := { r.line with item := item, flight := some { req := q, phase := .firstSend, start := now } } }

/-- The first request of a list that satisfies `want`, and the list without it. -/
def takeFirst (want : Request → Bool) : List Request → Option (Request × List Request)
  | [] => none
  | q :: rest =>
    if want q then some (q, rest)
    else match takeFirst want rest with
      | some (q', rest') => some (q', q :: rest')
      | none => none

/-- The free line begins the first of: the HALT, the CHARGE, the oldest request that does not yield, the
oldest one that does; while the terminal is TESTING only the HALT (R31). -/
def PortRecord.serveLine (now : Ms) (r : PortRecord) : PortRecord :=
  if r.line.flight.isSome || !r.lineOpen then r
  else match r.line.halt with
    | some os =>
      { r with line := { r.line with halt := none } }.begin now { body := .halt, owners := os }
    | none =>
      if r.term.state == .testing then r
      else match r.line.charge with
        | some c =>
          { r with line := { r.line with charge := none } }.begin now { body := .charge c, owners := [.feed] }
        | none =>
          match takeFirst (fun q => !q.yields) r.line.general with
          | some (q, rest) => { r with line := { r.line with general := rest } }.begin now q
          | none =>
            match takeFirst (fun _ => true) r.line.general with
            | some (q, rest) => { r with line := { r.line with general := rest } }.begin now q
            | none => r

/-- A suspension of polling begins: the poll lets go of any QUERY still queued, and then the poll due time
becomes the part clock (R10, log 9). -/
def PortRecord.suspendPoll (clock : Time) (r : PortRecord) : PortRecord :=
  if r.line.general.any (fun q => q.owners.contains .poll) then
    { r with
      line := { r.line with
        general := (r.line.general.map (Request.drop (· == .poll))).filter fun q => !q.owners.isEmpty }
      sup := { r.sup with pollDue := some clock } }
  else r

/-! ### Feed states (chapter 3) -/

/-- The feed state moved, with the CHARGE that R33 hands over: the limit code on entering FULL or DUTY, 0 on
leaving the pair. The duty frame stays only in DUTY, and the overcurrent timer only while fed. -/
def PortRecord.moveFeed (new : FeedState) (r : PortRecord) : PortRecord :=
  let r' : PortRecord := { r with
    feed := { r.feed with state := new, duty := if new == .duty then r.feed.duty else none }
    tim := { r.tim with overcur := if new.fed && r.feed.state.fed then r.tim.overcur else none } }
  if new.fed && !r.feed.state.fed then r'.handCharge r.setup.limit
  else if !new.fed && r.feed.state.fed then r'.handCharge 0
  else r'

/-- Bias returns to a line that had none: the first poll falls due 20 s later (R10, R15), and the first
application after cold start is recorded as the COLD restart (R2, R55); bit 4 is RESTARTED. -/
def PortRecord.restoreBias (clock : Time) (r : PortRecord) : PortRecord :=
  if r.hasBias then r
  else if r.feed.coldDone then { r with sup := { r.sup with pollDue := some (clock + Config.firstPoll) } }
  else
    { r with
      feed := { r.feed with coldDone := true }
      sup := { r.sup with pollDue := some (clock + Config.firstPoll), cause := .cold, restarts := 1,
                          lastRestart := some clock }
      rep := { r.rep with status := r.rep.status ||| 0x0010#16 } }

end Sys2Proof.Machine
end

