-- ==== Sys2Proof/Machine/Flags.lean ====
section
/-! DEFINITION. Event bits and lines: port status bits (section 12-2), part events and wake causes
(section 12-1), the slot bitmaps, PORT ATTENTION (R18) and ATTN (R144, R156). -/

namespace Sys2Proof.Machine

/-- The bits of a port status word (section 12-2). -/
inductive StatusBit where
  | demand | demandEnded | silent | answering | restarted | tripped | fault | absent
  | present | onBattery | offBattery | shed | unshed | preempted | testDone | short
deriving DecidableEq, Repr

def StatusBit.mask : StatusBit → Half
  | .demand => 0x0001#16 | .demandEnded => 0x0002#16 | .silent => 0x0004#16 | .answering => 0x0008#16
  | .restarted => 0x0010#16 | .tripped => 0x0020#16 | .fault => 0x0040#16 | .absent => 0x0080#16
  | .present => 0x0100#16 | .onBattery => 0x0200#16 | .offBattery => 0x0400#16 | .shed => 0x0800#16
  | .unshed => 0x1000#16 | .preempted => 0x2000#16 | .testDone => 0x4000#16 | .short => 0x8000#16

/-- A status bit set; a bit already set stays set (R17). -/
def PortRecord.mark (b : StatusBit) (r : PortRecord) : PortRecord :=
  { r with rep := { r.rep with status := r.rep.status ||| b.mask } }

/-- A status bit is set. -/
def PortRecord.marked (b : StatusBit) (r : PortRecord) : Bool := r.rep.status &&& b.mask != 0

/-- The host's clearing write of a status word: DEMAND stays while a demand stands, FAULT while the latch is
set (R17). -/
def PortRecord.clearStatus (v : Half) (r : PortRecord) : PortRecord :=
  let v1 := if r.demandStands then v &&& ~~~StatusBit.demand.mask else v
  let v2 := if r.feed.latch then v1 &&& ~~~StatusBit.fault.mask else v1
  { r with rep := { r.rep with status := r.rep.status &&& ~~~v2 } }

/-- The port's PORT ATTENTION bit (R18). -/
def PortRecord.attention (r : PortRecord) : Bool := r.rep.status &&& r.rep.enable != 0

/-- The part events (R154). -/
inductive PartEvent where
  | modeChanged | shedChanged | envelopeLocked | postClash | strayWrite | cutoff | budgetUnset
  | gatewayForced | holdCensus
deriving DecidableEq, Repr

def PartEvent.mask : PartEvent → Word
  | .modeChanged => 0x001#32 | .shedChanged => 0x002#32 | .envelopeLocked => 0x004#32
  | .postClash => 0x008#32 | .strayWrite => 0x010#32 | .cutoff => 0x020#32 | .budgetUnset => 0x040#32
  | .gatewayForced => 0x080#32 | .holdCensus => 0x100#32

/-- The bits of the gateway wake cause word (R145). -/
inductive Cause where
  | done | port | partEvent | mains | forcedEnd | boot
deriving DecidableEq, Repr

def Cause.mask : Cause → Word
  | .done => 0x01#32 | .port => 0x02#32 | .partEvent => 0x04#32 | .mains => 0x08#32
  | .forcedEnd => 0x10#32 | .boot => 0x20#32

/-- The cause bit a wake condition sets, and its bit in the wake mask (sections 12-1 and 9-3). -/
def condCause : WakeCond → Cause
  | .done => .done | .port => .port | .partEvent => .partEvent | .mains => .mains

def condMask : WakeCond → BitVec 4
  | .done => 1#4 | .port => 2#4 | .partEvent => 4#4 | .mains => 8#4

/-- The condition is in the wake mask in force (R143). -/
def Gateway.holds (g : Gateway) (c : WakeCond) : Bool := g.mask &&& condMask c != 0

/-- A wake condition handed to the gateway feed controller (R143). -/
def State.wake (s : State) (c : WakeCond) : State :=
  s.setGw { s.gw with wakes := s.gw.wakes ++ [c] }

/-- A part event raised: its bit is set and, if it is enabled and not GATEWAY_FORCED, handed on as a wake
condition (R154, R141). -/
def State.raise (s : State) (e : PartEvent) : State :=
  let s' := s.setEx { s.ex with partEvent := s.ex.partEvent ||| e.mask }
  if e != .gatewayForced && s.ex.partEventEn &&& e.mask != 0 then s'.wake .partEvent else s'

/-- A cause bit set (R145). -/
def State.setCause (s : State) (c : Cause) : State :=
  s.setEx { s.ex with wakeCause := s.ex.wakeCause ||| c.mask }

/-! ### The slot bitmaps (section 10-3) -/

def SlotState.isPosted : SlotState → Bool
  | .posted => true
  | _ => false

def SlotState.isTaken : SlotState → Bool
  | .taken .. => true
  | _ => false

def SlotState.isDone : SlotState → Bool
  | .done => true
  | _ => false

def SlotState.isFree : SlotState → Bool
  | .free => true
  | _ => false

/-- A cancel of the slot is pending (R153). -/
def SlotState.cancelPending : SlotState → Bool
  | .taken _ _ _ c => c
  | _ => false

/-- The 32-bit word whose bit s is set for each slot s that satisfies `want`. -/
def slotWord (slots : Vector SlotState 32) (want : SlotState → Bool) : Word :=
  allSlots.foldr (fun i w => if want slots[i.val] then w ||| BitVec.twoPow 32 i.val else w) 0

def Exchange.postWord (e : Exchange) : Word := slotWord e.slots SlotState.isPosted
def Exchange.takenWord (e : Exchange) : Word := slotWord e.slots SlotState.isTaken
def Exchange.doneWord (e : Exchange) : Word := slotWord e.slots SlotState.isDone
def Exchange.cancelWord (e : Exchange) : Word := slotWord e.slots SlotState.cancelPending

/-! ### PORT ATTENTION and ATTN -/

/-- The port's bit of the PORT ATTENTION bitmap; 0 for a port that is not fitted (R1, R18). -/
def State.attention (s : State) (p : Port) : Bool := s.fitted p && (s.port p).attention

/-- One word of the bitmap: ports 0 to 31, or 32 to 63 (section 0-6-1). -/
def State.attentionWord (s : State) (high : Bool) : Word :=
  allPorts.foldr (fun p w =>
    if s.attention p && (decide (32 ≤ p.val) == high) then w ||| BitVec.twoPow 32 (p.val % 32) else w) 0

/-- An ATTN source counts unless an IDLE rest stands whose wake mask does not hold its condition (R144). -/
def Gateway.counts (g : Gateway) (c : WakeCond) : Bool := g.rest != .idle || g.holds c

/-- Whether ATTN is to be asserted (R156, R144). -/
def State.attnLevel (s : State) : Bool :=
  (s.ex.doneWord &&& s.ex.doneEn != 0 && s.gw.counts .done)
    || (s.ex.partEvent &&& s.ex.partEventEn != 0 && s.gw.counts .partEvent)
    || (allPorts.any s.attention && s.gw.counts .port)
    || (s.ex.wakeCause != 0 && s.gw.rest != .idle)

end Sys2Proof.Machine
end

