-- ==== Sys2Proof/Machine/Publish.lean ====
section
/-! DEFINITION. What ends every event: the rewrites its changes ask for (R19, R75, R77, R79, R104, R124, R125,
R146, R155), the PORT wake conditions of attention bits that rose (R18, R143), and the ATTN line (R156); and the
form of an event. -/

namespace Sys2Proof.Machine

/-- The campaigns held in the three places (R105). -/
def Engine.held (e : Engine) : List Campaign := e.active.toList ++ e.stack ++ e.waiting

/-- The campaign a view number shows: the held one, else the one last ended under it (R124). -/
def Engine.shown (e : Engine) (v : ViewNo) : Option Campaign :=
  match e.held.find? (fun c => c.view == v) with
  | some c => some c
  | none => e.ended[v.val]

/-- Bytes 2 to 125 of a port's view as the state stands. -/
def State.portBytes (s : State) (p : Port) : List Byte := portFields (s.port p) s.bu p

/-- Bytes 2 to 125 of a campaign view as the state stands; none for a number with no campaign to show. -/
def State.campBytes (s : State) (v : ViewNo) : Option (List Byte) := (s.ce.shown v).map campFields

/-- Addresses 0x42 to 0xFD of the part status record as the state stands. -/
def State.psrBytes (s : State) : List Byte :=
  psrFields s.mc s.bu s.ce s.gw s.standingDemands s.unservedDemands

/-- The part status record without the part clock and the grant revision, whose changes ask for no rewrite of
their own (R90, R75). -/
def State.psrShown (s : State) : List Byte :=
  psrFields { s.mc with clock := 0 } { s.bu with grantRev := 0 } s.ce s.gw s.standingDemands
    s.unservedDemands

/-- The standing of a fitted port differs between `s` and `t` (R79). -/
def standingMoved (s t : State) : Bool := t.fittedPorts.any fun p => t.standing p != s.standing p

/-- The records whose shown fields differ between `s` and `t`; each bank sample (R56) and each change of a standing
(R79) asks for the part status record too. -/
def changedViews (s t : State) : List ViewId :=
  ((t.fittedPorts.filter fun p => t.portBytes p != s.portBytes p).map ViewId.port)
    ++ ((allViews.filter fun v => (t.campBytes v).isSome && t.campBytes v != s.campBytes v).map
        ViewId.campaign)
    ++ (if t.psrShown != s.psrShown || t.bu.lastSample != s.bu.lastSample || standingMoved s t then [.partStatus]
      else [])

/-- A rewrite asked for whatever the record shows at the event's end (R19, R111, R146). -/
def State.ask (s : State) (v : ViewId) : State := s.setEx { s.ex with views := s.ex.views ++ [v] }

/-- The rewrites an event's end asks for: of the changed records, those that the event itself has not asked for. -/
def askedViews (s t : State) : List ViewId :=
  (changedViews s t).filter fun v => decide (t.ex.views.count v ≤ s.ex.views.count v)

/-- Whether the grant view or the queue order list differs between `s` and `t` (R75). -/
def grantsChanged (s t : State) : Bool :=
  grantView t.bu != grantView s.bu || queueList t.bu != queueList s.bu

/-- One PORT wake condition for each attention bit that is 0 in `s` and 1 in `t` (R143). -/
def risenAttention (s t : State) : List WakeCond :=
  (allPorts.filter fun p => t.attention p && !s.attention p).map fun _ => WakeCond.port

/-- ATTN driven as its sources stand (R156). -/
def State.driveAttn (s : State) : State := s.setEx { s.ex with attn := s.attnLevel }

/-- The end of an event that took `s` to `t`: rewrites asked for, PORT conditions handed on, ATTN driven. -/
def State.finish (s t : State) : State :=
  State.driveAttn { t with
    ex := { t.ex with
      views := t.ex.views ++ askedViews s t
      grantViews := t.ex.grantViews + if grantsChanged s t then 1 else 0 }
    gw := { t.gw with wakes := t.gw.wakes ++ risenAttention s t } }

/-- An event: taken when it is due, and nothing otherwise (log 1). -/
def State.event (s : State) (due : Bool) (effect : State → State) : Out :=
  if due then .next (s.finish (effect s)) else .next s

/-- An event of a fitted port, due by its record. -/
def State.portEvent (s : State) (p : Port) (due : PortRecord → Bool) (effect : State → State) : Out :=
  s.event (s.fitted p && due (s.port p)) effect

end Sys2Proof.Machine
end

