-- ==== Sys2Proof/Machine/TaskOps.lean ====
section
/-! DEFINITION. Completing a task (R152) and counting a hold census (R101). -/

namespace Sys2Proof.Machine

/-! ### Completion (R152) -/

/-- The slot becomes DONE with its result half written whole; a DONE wake condition if its enable bit is 1
(R143, R152). -/
def State.finishSlot (s : State) (slot : Slot) (tag : Half) (st : Status) (fields : List Byte) : State :=
  let s' := s.setEx { s.ex with
    mem := Memory.write s.ex.mem (resultBase slot) (resultHalf st tag s.clock fields)
    slots := s.ex.slots.set slot.val .done }
  if s.ex.doneEn.getLsbD slot.val then s'.wake .done else s'

/-- An owner's completion: dropped unless the slot is TAKEN under that take number (R152). -/
def State.complete (s : State) (t : TaskRef) (st : Status) (fields : List Byte) : State :=
  match s.ex.slots[t.slot.val] with
  | .taken take tag _ _ => if take == t.take then s.finishSlot t.slot tag st fields else s
  | .free | .posted | .done => s

/-- Several tasks completed with one status. -/
def State.completeAll (s : State) (ts : List TaskRef) (st : Status) (fields : List Byte) : State :=
  ts.foldl (fun s t => s.complete t st fields) s

/-! ### The hold census (R101) -/

/-- A running census is DONE when every claim is answered and every asked query counted. -/
def State.censusSettle (s : State) : State :=
  let c := s.mc.census
  if c.state == .running && c.unanswered == 0 && c.asked == c.answered + c.silent + c.lost then
    (s.setMc { s.mc with census := { c with state := .done } }).raise .holdCensus
  else s

/-- A change of the running census' counts. -/
def State.census (s : State) (f : Census → Census) : State :=
  if s.mc.census.state == .running then
    (s.setMc { s.mc with census := f s.mc.census }).censusSettle
  else s

/-- `n` queries counted as lost. -/
def State.censusLost (s : State) (n : Nat) : State :=
  if n == 0 then s else s.census fun c => { c with lost := c.lost + n }

end Sys2Proof.Machine
end

