-- ==== Sys2Proof/Machine/BudgetOps.lean ====
section
/-! DEFINITION. The claims of R65 and R67 as the budget unit takes them, the order of the grant queue (R66), the
choice of a grant to revoke (R70, R73), and the shed level with the floor condition (R60 to R62). -/

namespace Sys2Proof.Machine

/-! ### The grant queue (R66) -/

/-- Request `a` stands ahead of request `b`. -/
def GrantReq.ahead (a b : GrantReq) : Bool :=
  match a.kind, b.kind with
  | .lifeline, .lifeline => decide (a.arrival < b.arrival)
  | .lifeline, .feed => true
  | .feed, .lifeline => false
  | .feed, .feed => decide (a.tier < b.tier) || (a.tier == b.tier && decide (a.arrival < b.arrival))

/-- A request put in the place its kind, tier and arrival give it. -/
def placeReq (q : GrantReq) : List GrantReq → List GrantReq
  | [] => [q]
  | h :: rest => if q.ahead h then q :: h :: rest else h :: placeReq q rest

/-- The queue without a port's request. -/
def Budget.without (b : Budget) (p : Port) : List GrantReq := b.queue.filter fun q => q.port != p

def Budget.setPlace (b : Budget) (p : Port) (g : Option Grant) : Budget :=
  { b with table := b.table.set p.val g }

/-! ### Claims (R65, R67); each calls for a serving (R68) -/

/-- A request joins the queue with the next arrival number. -/
def Budget.request (b : Budget) (p : Port) (amount : Nat) (kind : GrantKind) (tier : Nat) : Budget :=
  { b with
    queue := placeReq { port := p, amount := amount, kind := kind, tier := tier, arrival := b.arrivals + 1 } b.queue
    arrivals := b.arrivals + 1
    due := true }

/-- A withdrawal. -/
def Budget.withdraw (b : Budget) (p : Port) : Budget := { b with queue := b.without p, due := true }

/-- A release. -/
def Budget.release (b : Budget) (p : Port) : Budget := { b.setPlace p none with due := true }

/-- The port's grant released, or its request withdrawn, or nothing (R40). -/
def Budget.drop (b : Budget) (p : Port) : Budget :=
  if (b.grantOf p).isSome then b.release p
  else if (b.requestOf p).isSome then b.withdraw p
  else b

/-- A change in place of the port's grant. -/
def Budget.changeGrant (b : Budget) (p : Port) (f : Grant → Grant) : Budget :=
  { b.setPlace p ((b.grantOf p).map f) with due := true }

/-- A change of the port's request, which goes to the place its new fields give it. -/
def Budget.changeReq (b : Budget) (p : Port) (f : GrantReq → GrantReq) : Budget :=
  match b.requestOf p with
  | some q => { b with queue := placeReq (f q) (b.without p), due := true }
  | none => b

/-- A kind change of a grant or a request; none when the kind stays (R41). -/
def Budget.changeKind (b : Budget) (p : Port) (k : GrantKind) : Budget :=
  match b.grantOf p, b.requestOf p with
  | some g, _ => if g.kind == k then b else b.changeGrant p fun g => { g with kind := k }
  | none, some q => if q.kind == k then b else b.changeReq p fun q => { q with kind := k }
  | none, none => b

/-- A tier change of a grant or a request; none when the tier stays (R48). -/
def Budget.changeTier (b : Budget) (p : Port) (t : Nat) : Budget :=
  match b.grantOf p, b.requestOf p with
  | some g, _ => if g.tier == t then b else b.changeGrant p fun g => { g with tier := t }
  | none, some q => if q.tier == t then b else b.changeReq p fun q => { q with tier := t }
  | none, none => b

/-- The amount of the queued request changed, its place kept. -/
def Budget.changeReqAmount (b : Budget) (p : Port) (n : Nat) : Budget :=
  { b with
    queue := b.queue.map fun q => if q.port == p then { q with amount := n } else q
    due := true }

/-! ### Revocation (R70, R73) -/

/-- Grant `a` is revoked before grant `b`: a higher tier number, then the more recent. -/
def Grant.revokedBefore (a b : Grant) : Bool :=
  decide (b.tier < a.tier) || (a.tier == b.tier && decide (b.order < a.order))

/-- The first grant of a kind to be revoked. -/
def Budget.victim (b : Budget) (k : GrantKind) : Option (Port × Grant) :=
  allPorts.foldl (fun best p =>
    match b.grantOf p with
    | some g =>
      if g.kind == k then
        match best with
        | some (_, h) => if g.revokedBefore h then some (p, g) else best
        | none => some (p, g)
      else best
    | none => best) none

/-- The place emptied and the request put back with a new arrival number. -/
def Budget.requeue (b : Budget) (p : Port) (g : Grant) : Budget :=
  (b.setPlace p none).request p g.amount g.kind g.tier

/-- The head granted: it leaves the queue and fills its port's place with the next grant order (R68). -/
def Budget.grantHead (b : Budget) (q : GrantReq) (rest : List GrantReq) (clock : Time) : Budget :=
  { b.setPlace q.port (some { amount := q.amount, kind := q.kind, tier := q.tier, time := clock,
                              order := b.orders + 1 }) with
    queue := rest
    orders := b.orders + 1 }

/-! ### The estimate, the shed level and the floor condition (R58, R60 to R62) -/

/-- One whole unit at a time moves between the residue and the estimate, at most `fuel` of them (R58). -/
def countUnits (capacity : Nat) : Nat → Nat → Int → Nat × Int
  | 0, e, r => (e, r)
  | fuel + 1, e, r =>
    if Config.unitResidue ≤ r then
      if e == 0 then (0, 0) else countUnits capacity fuel (e - 1) (r - Config.unitResidue)
    else if r ≤ -Config.unitResidue then
      if capacity ≤ e then (capacity, 0) else countUnits capacity fuel (e + 1) (r + Config.unitResidue)
    else (e, r)

/-- A sample of 16 bits and a residue below 3600 make at most ten units. -/
def sampleUnits : Nat := 16

/-- One bank current sample brought into a set estimate (R58). -/
def Budget.integrate (b : Budget) (amps : Half) : Budget :=
  match b.estimate with
  | some e =>
    let r := countUnits (b.capacity.getD 0) sampleUnits e (b.residue + amps.toInt)
    { b with estimate := some r.1, residue := r.2 }
  | none => b

/-- The shed level that the mode, the estimate, the thresholds and the floor give (R60). -/
def Budget.level (b : Budget) : Nat :=
  match b.mode, b.estimate, b.thresholds with
  | .mains, _, _ => 0
  | _, some e, some t =>
    if t.t3 ≤ e then 0 else if t.t2 ≤ e then 1 else if t.t1 ≤ e then 2 else if b.floor ≤ e then 3 else 4
  | _, _, _ => 0

/-- The floor condition: the estimate is set and below the floor (R62). -/
def Budget.belowFloor (b : Budget) : Bool :=
  match b.estimate with
  | some e => decide (e < b.floor)
  | none => false

/-- A new shed level in force: SHED_CHANGED, and the level handed to its receivers (R61). The ports and the gateway feed
controller take it by commands of their own; the table gives the campaign engine none, so it holds the level at once
(log 5). -/
def State.evalLevel (s : State) : State :=
  let n := s.bu.level
  if n == s.bu.shed then s
  else
    let t := (s.setBu { s.bu with shed := n }).raise .shedChanged
    let u := (t.setGw { t.gw with sheds := t.gw.sheds ++ [n] }).setCe { t.ce with shed := n }
    u.onFitted fun r => { r with box := { r.box with sheds := r.box.sheds ++ [n] } }

/-- A change of the floor condition, handed to the mode controller (R62). -/
def State.evalFloor (s : State) : State :=
  let f := s.bu.belowFloor
  if f == s.bu.floorCond then s
  else
    let t := s.setBu { s.bu with floorCond := f }
    t.setMc { t.mc with floors := t.mc.floors ++ [f] }

/-- The budget unit evaluates the shed level and the floor condition (R60, R62). -/
def State.evalShed (s : State) : State := s.evalLevel.evalFloor

end Sys2Proof.Machine
end

