-- ==== Sys2Proof/Machine/LineOps.lean ====
section
/-! DEFINITION. Joining the general places (R30), the awake-until duty (R16), what the end of a port's event
settles (R31), reports to the campaign engine (R138), and the loss of a line's work (R6, R14, R27). -/

namespace Sys2Proof.Machine

/-! ### Joining the general places (R30) -/

/-- A new QUERY takes over the poll QUERY that is queued: that one leaves and its owners become owners of the
new one (R30, log 11). -/
def Line.absorbPoll (q : Request) (l : Line) : Request × Line :=
  if q.body == .query then
    match takeFirst Request.isPollQuery l.general with
    | some (old, rest) => ({ q with owners := q.owners ++ old.owners }, { l with general := rest })
    | none => (q, l)
  else (q, l)

/-- A host, item or awake-until request takes a general place of its own, displacing a poll QUERY if all four
are taken; none if it cannot join. The displaced poll QUERY comes back beside the line. -/
def Line.join (q0 : Request) (l0 : Line) : Option (Line × Option Request) :=
  let (q, l) := l0.absorbPoll q0
  if l.general.length < 4 then some ({ l with general := l.general ++ [q] }, none)
  else match takeFirst Request.isPollQuery l.general with
    | some (old, rest) => some ({ l with general := rest ++ [q] }, some old)
    | none => none

/-- How often a request's owners name a census. -/
def Request.censuses (q : Request) : Nat := q.owners.count .census

/-- A poll QUERY displaced from port `p`: the poll is skipped and a census merged into it is lost (R30). -/
def State.displaced (s : State) (p : Port) (old : Request) : State :=
  (s.onPort p fun r =>
    { r with sup := { r.sup with pollDue := some (s.clock + r.setup.pollInterval) } }).censusLost old.censuses

/-- A request joins port `p`'s general places; none if it cannot (R30). -/
def State.join (s : State) (p : Port) (q : Request) : Option State :=
  match (s.port p).line.join q with
  | some (l, old) =>
    let t := s.onPort p fun r => { r with line := l }
    some (match old with | some o => t.displaced p o | none => t)
  | none => none

/-! ### The awake-until duty (R16, R133) -/

/-- The owners of the closing SLEEP: the duty, and through it a wake item in its window. -/
def PortRecord.sleepOwners (r : PortRecord) : List Owner :=
  match r.line.item with
  | some i => if i.phase == .window then [.awakeUntil, .item i.num] else [.awakeUntil]
  | none => [.awakeUntil]

/-- The SLEEP has been queued: the awake-until time goes and a wake item in its window is CLOSING. -/
def PortRecord.sleepQueued (r : PortRecord) : PortRecord :=
  { r with
    term := { r.term with awakeUntil := none, awakeDue := false }
    line := { r.line with item := r.line.item.map fun i =>
      if i.phase == .window then { i with phase := .closing } else i } }

/-- An awake-until time that has been reached queues its SLEEP once the demand is IDLE and a general place is
available (R16). -/
def State.sleepDuty (s : State) (p : Port) : State :=
  let r := s.port p
  if r.term.awakeDue && r.dem.state == .idle && r.lineOpen then
    match s.join p { body := .sleep, owners := r.sleepOwners } with
    | some t => t.onPort p PortRecord.sleepQueued
    | none => s
  else s

/-- What the end of an event settles on its port: the awake-until SLEEP, the line (R31), the SLEEP again if
the serving freed a place, and the timers (log 13). -/
def State.settlePort (s : State) (p : Port) : State :=
  (((s.sleepDuty p).onPort p (PortRecord.serveLine s.ms)).sleepDuty p).onPort p (PortRecord.settleTimers s.ms)

/-- The same for every port whose record differs between `s` and `t`. -/
def State.settleChanged (s t : State) : State :=
  allPorts.foldl (fun u p => if t.port p == s.port p then u else u.settlePort p) t

/-! ### Reports (R138) -/

/-- A report of port `p` handed to the campaign engine. -/
def State.report (s : State) (p : Port) (m : Report) : State :=
  s.onPort p fun r => { r with box := { r.box with out := r.box.out ++ [m] } }

/-- The item ends: it is removed and the item end is sent (R138). -/
def State.itemGone (s : State) (p : Port) : State :=
  match (s.port p).line.item with
  | some i => (s.onPort p fun r => { r with line := { r.line with item := none } }).report p (.ended i.num)
  | none => s

/-! ### The loss of a line's work (R6, R14, R27, R136) -/

/-- The tasks among a list of owners. -/
def tasksOf (os : List Owner) : List TaskRef :=
  os.filterMap fun o => match o with
    | .task t => some t
    | _ => none

/-- Every owner of a request in flight or in the general places. -/
def Line.owners (l : Line) : List Owner := l.requests.flatMap (·.owners)

/-- The current item aborted with ABORTED_RESTART: its result unless it is ENDING, and its end (R136). -/
def State.itemLost (s : State) (p : Port) : State :=
  match (s.port p).line.item with
  | some i =>
    let t := if i.phase == .ending then s else s.report p (.result i.num .abortedRestart)
    t.itemGone p
  | none => s

/-- The record of a port whose line work is abandoned: nothing in flight, an empty queue, no result window, no
test hold, no awake-until time, no silence; a poll that was outstanding is due from now (R6, R14, R10, log 9). -/
def PortRecord.cutLine (clock : Time) (new : TermState) (r : PortRecord) : PortRecord :=
  { r with
    line := { r.line with flight := none, halt := none, charge := none, general := [], window := none }
    feed := { r.feed with hold := false }
    term := { r.term with state := new, awakeUntil := none, awakeDue := false }
    sup := { r.sup with
      silence := 0
      deferred := false
      pollDue := if r.line.owners.contains .poll then some clock else r.sup.pollDue } }

/-- The line engine abandons its request and empties its queue: host tasks complete WRONG_STATE, census queries
are lost, the item is aborted; the terminal becomes `new` (R6, R14, R27). -/
def State.loseLine (s : State) (p : Port) (new : TermState) : State :=
  let os := (s.port p).line.owners
  (((s.onPort p (PortRecord.cutLine s.clock new)).itemLost p).completeAll (tasksOf os) .wrongState []).censusLost
    (os.count .census)

/-- The record of a port whose line loses bias: the short ends, the timers stop and a standing demand ends at
once (R8, R14, R36). -/
def PortRecord.cutBias (r : PortRecord) : PortRecord :=
  let r' := { r with
    feed := { r.feed with short := false }
    tim := stoppedTimers
    dem := { r.dem with state := .idle } }
  if r.demandStands then r'.mark .demandEnded else r'

/-- Bias is removed from a line (R14, R36). -/
def State.loseBias (s : State) (p : Port) : State :=
  (s.loseLine p .unknown).onPort p PortRecord.cutBias

end Sys2Proof.Machine
end

