-- ==== Sys2Proof/Machine/FeedOps.lean ====
section
/-! DEFINITION. Moving the feed: restarts (R14), the evaluation of the feed target and its moves (R37, R40, R41),
limit changes (R47), and the serving of the grant queue with grants and revocations (R43, R44, R68 to R73). -/

namespace Sys2Proof.Machine

/-- The grant or request of a port given up (R40). -/
def State.dropGrant (s : State) (p : Port) : State := s.setBu (s.bu.drop p)

/-! ### Restarts (R14) -/

/-- What a restart records, with the CYCLING feed (R14). -/
def PortRecord.cycle (now : Ms) (clock : Time) (cause : RestartCause) (r : PortRecord) : PortRecord :=
  PortRecord.mark .restarted { r with
    feed := { r.feed with state := .cycling, target := .cycling, duty := none, cooling := none,
                          offTime := some now }
    sup := { r.sup with cause := cause, lastRestart := some clock, restarts := countUp r.sup.restarts 65535 } }

/-- A restart begins (R14). -/
def State.beginRestart (s : State) (p : Port) (cause : RestartCause) : State :=
  ((s.dropGrant p).loseBias p).onPort p (PortRecord.cycle s.ms s.clock cause)

/-- A silence restart that is called for: dropped if the count no longer reaches the threshold, taken if no
demand, item or latch stands in its way, and deferred otherwise (R13). -/
def State.settleRestart (s : State) (p : Port) : State :=
  let r := s.port p
  if !r.sup.deferred then s
  else if r.sup.silence < r.setup.threshold || r.setup.threshold == 0 then
    s.onPort p fun r => { r with sup := { r.sup with deferred := false } }
  else if r.dem.state == .idle && r.line.item.isNone && !r.feed.latch then s.beginRestart p .silence
  else s

/-! ### Moving the feed toward its target (R40, R41) -/

/-- Entry to OFF: grant, line work and bias go, with any cooling or off-time, and each waiting PORT RESTART
completes WRONG_STATE (R40, R14, R15). -/
def State.enterOff (s : State) (p : Port) : State :=
  let ws := (s.port p).sup.waiting
  (((s.dropGrant p).loseBias p).onPort p fun r =>
    { r with
      feed := { r.feed with state := .off, duty := none, cooling := none, offTime := none }
      sup := { r.sup with waiting := [] } }).completeAll ws .wrongState []

/-- Entry to a state on bias alone: any grant or request goes, and bias returns if the line had none (R40). Entry to
FAULT from OFF, the latch still set, sets no FAULT bit: the third trip alone does (DESIGN CHOICE, log 36). -/
def State.enterBias (s : State) (p : Port) (f : FeedState) : State :=
  (s.dropGrant p).onPort p fun r => (r.restoreBias s.clock).moveFeed f

/-- A duty frame begun now, in its ON phase (R45). -/
def newFrame (clock : Time) (eighths : Nat) : DutyFrame := { on := true, start := clock, eighths := eighths }

/-- FULL under a grant (R41, R43). -/
def PortRecord.enterFull (r : PortRecord) : PortRecord := r.moveFeed .full

/-- DUTY under a grant: a new frame, unless the port is in DUTY already (R41, R43, R46). -/
def PortRecord.enterDuty (clock : Time) (eighths : Nat) (r : PortRecord) : PortRecord :=
  if r.feed.state == .duty then r
  else
    let r' := r.moveFeed .duty
    { r' with feed := { r'.feed with duty := some (newFrame clock eighths) } }

/-- What a port that holds a grant enters for its target (R41, R43). -/
def PortRecord.enterFed (clock : Time) (t : Target) (r : PortRecord) : PortRecord :=
  match t with
  | .full _ => r.enterFull
  | .duty e _ => r.enterDuty clock e
  | .off | .fault | .cycling | .tripped | .bias => r

/-- A FULL or DUTY target of kind `k`: under a grant the port enters it, with a request it waits on, and with
neither it becomes WAITING and asks (R41). -/
def State.seekFeed (s : State) (p : Port) (t : Target) (k : GrantKind) : State :=
  if (s.bu.grantOf p).isSome then
    (s.setBu (s.bu.changeKind p k)).onPort p (PortRecord.enterFed s.clock t)
  else if (s.bu.requestOf p).isSome then s.setBu (s.bu.changeKind p k)
  else
    let r := s.port p
    (s.setBu (s.bu.request p r.setup.limit k r.setup.tier)).onPort p fun r =>
      (r.restoreBias s.clock).moveFeed .waiting

/-- The feed moved toward a new target (R40, R41); CYCLING is entered by a restart alone (R14). -/
def State.moveToward (s : State) (p : Port) (t : Target) : State :=
  match t with
  | .off => s.enterOff p
  | .bias => s.enterBias p .bias
  | .tripped => s.enterBias p .tripped
  | .fault => s.enterBias p .fault
  | .cycling => s
  | .full k => s.seekFeed p t k
  | .duty _ k => s.seekFeed p t k

/-- The feed target is evaluated: a target equal to the present one changes nothing, and before the port's first
evaluation none is made (R37, R55). -/
def State.evaluate (s : State) (p : Port) : State :=
  let t := (s.port p).decision
  if !(s.port p).feed.started || t == (s.port p).feed.target then s
  else (s.onPort p fun r => { r with feed := { r.feed with target := t } }).moveToward p t

/-- SHED or UNSHED, as a change of record from `old` to `r` made or unmade the port shed and moved its row-9
outcome with it (R39). -/
def PortRecord.shedBits (old r : PortRecord) : PortRecord :=
  if !old.shed && r.shed && old.row9 != .bias && r.row9 == .bias then r.mark .shed
  else if old.shed && !r.shed && old.row9 == .bias && r.row9 != .bias then r.mark .unshed
  else r

/-- An input of the decision changed by `f`, its SHED or UNSHED bit set, and the target evaluated (R37, R39). Row 9 is
judged on the record before what the evaluation and a restart bring, the loss of bias among it (DESIGN CHOICE,
log 37). -/
def State.takeInput (s : State) (p : Port) (f : PortRecord → PortRecord) : State :=
  (s.onPort p fun r => r.shedBits (f r)).evaluate p

/-! ### Limit and tier changes (R47, R48) -/

/-- The port's limit code told to the budget unit: a grant above it is lowered in place with a CHARGE, a grant
below it is released and asked for anew, and a request takes it in place (R47). -/
def State.applyLimit (s : State) (p : Port) : State :=
  let n := (s.port p).setup.limit
  match s.bu.grantOf p, s.bu.requestOf p with
  | some g, _ =>
    if n < g.amount then
      (s.setBu (s.bu.changeGrant p fun g => { g with amount := n })).onPort p (PortRecord.handCharge n)
    else if g.amount < n then
      (s.setBu ((s.bu.release p).request p n g.kind (s.port p).setup.tier)).onPort p
        (PortRecord.moveFeed .waiting)
    else s
  | none, some q => if q.amount == n then s else s.setBu (s.bu.changeReqAmount p n)
  | none, none => s

/-- The port's tier told to the budget unit (R48). -/
def State.applyTier (s : State) (p : Port) : State := s.setBu (s.bu.changeTier p (s.port p).setup.tier)

/-! ### Serving the grant queue (R43, R44, R68 to R73) -/

/-- The head is granted and its port enters what its target asks for (R43, R68). -/
def State.grant (s : State) (q : GrantReq) (rest : List GrantReq) : State :=
  (s.setBu (s.bu.grantHead q rest s.clock)).onPort q.port fun r => r.enterFed s.clock r.feed.target

/-- A grant is revoked: the request is re-queued and the port becomes WAITING, with PREEMPTED when a lifeline
made it (R44, R70, R73). The port's view is asked for here, since the same serving may grant the request again and leave
the view as it was (R19). -/
def State.revoke (s : State) (p : Port) (g : Grant) (preempted : Bool) : State :=
  ((s.setBu (s.bu.requeue p g)).onPort p fun r =>
    let r' := r.moveFeed .waiting
    if preempted then r'.mark .preempted else r').ask (.port p)

/-- The queue served from its head (R68, R70, R71): a head that fits is granted; a LIFELINE head that does not
takes FEED grants back, one a step; anything else stops the serving. -/
def State.serveQueue : Nat → State → State
  | 0, s => s
  | fuel + 1, s =>
    match s.bu.queue with
    | [] => s
    | q :: rest =>
      if q.amount ≤ s.bu.pool then State.serveQueue fuel (s.grant q rest)
      else if q.kind == .lifeline then
        match s.bu.victim .feed with
        | some (p, g) => State.serveQueue fuel (s.revoke p g true)
        | none => s
      else s

/-- More steps than one serving can take: at most 64 revocations, and a grant for each request there can be. -/
def serveSteps : Nat := 256

/-- One serving, whole (R69). -/
def State.serveWhole (s : State) : State :=
  let t := State.serveQueue serveSteps s
  t.setBu { t.bu with due := false }

/-- One serving, with the lines of the ports it touched. -/
def State.serve (s : State) : State := s.settleChanged s.serveWhole

/-- Grants are revoked until the sum fits the ceiling: FEED grants, then LIFELINE grants (R73). -/
def State.revokeToFit : Nat → State → State
  | 0, s => s
  | fuel + 1, s =>
    if s.bu.granted ≤ s.bu.ceiling then s
    else match s.bu.victim .feed with
      | some (p, g) => State.revokeToFit fuel (s.revoke p g false)
      | none => match s.bu.victim .lifeline with
        | some (p, g) => State.revokeToFit fuel (s.revoke p g false)
        | none => s

end Sys2Proof.Machine
end

