-- ==== Sys2Proof/Machine/ItemOps.lean ====
section
/-! DEFINITION. Items on a port (chapter 8): fixing a result, aborting, and starting; and the taking of answers
and silences with their outcomes for each owner (R4, R5, R12, R25, R26, R129, R133, R160). -/

namespace Sys2Proof.Machine

/-! ### Items -/

/-- The phase of the current item set. -/
def PortRecord.setPhase (ph : ItemPhase) (r : PortRecord) : PortRecord :=
  { r with line := { r.line with item := r.line.item.map fun i => { i with phase := ph } } }

/-- The result of the item `num` is fixed: the test hold is lifted, the feed target evaluated, and the item
result sent (R129, R135). -/
def State.fixResult (s : State) (p : Port) (num : Word) (code : ResCode) : State :=
  (((s.onPort p fun r => { r with feed := { r.feed with hold := false } }).evaluate p).report p
    (.result num code))

/-- The result is fixed and the item ends in the same event (R138); the two reports go one after the other (DESIGN
CHOICE, log 34). -/
def State.finishItem (s : State) (p : Port) (num : Word) (code : ResCode) : State :=
  (s.fixResult p num code).itemGone p

/-- The item `num` lets go of its request (R27). -/
def State.itemLetsGo (s : State) (p : Port) (num : Word) : State :=
  s.onPort p fun r => { r with line := r.line.letGo (· == .item num) }

/-- The item `num` hands over its closing HALT and is ENDING (R129, R137). -/
def State.itemHalts (s : State) (p : Port) (num : Word) : State :=
  s.onPort p fun r => (r.handHalt (.item num)).setPhase .ending

/-- A current test item aborted with `code`, by its phase (R81, R137). -/
def State.abortTest (s : State) (p : Port) (i : Item) (code : ResCode) : State :=
  match i.phase with
  | .holding => (s.itemLetsGo p i.num).finishItem p i.num code
  | .requested => ((s.itemLetsGo p i.num).fixResult p i.num code).itemHalts p i.num
  | .running =>
    ((s.onPort p fun r => { r with line := { r.line with window := none } }).fixResult p i.num code).itemHalts
      p i.num
  | .ending | .window | .closing => s

/-- A current wake item aborted with `code`, by its phase (R137). -/
def State.abortWake (s : State) (p : Port) (i : Item) (code : ResCode) : State :=
  match i.phase with
  | .requested | .closing => (s.itemLetsGo p i.num).finishItem p i.num code
  | .window =>
    (s.onPort p fun r =>
      { r with term := { r.term with awakeUntil := some s.clock, awakeDue := true } }).finishItem p i.num code
  | .holding | .running | .ending => s

/-- A test item current on the port is aborted by a new demand (R81); a wake item runs on (R80). -/
def State.abortByDemand (s : State) (p : Port) : State :=
  match (s.port p).line.item with
  | some i => match i.work with
    | .test .. => s.abortTest p i .abortedDemand
    | .wake _ => s
  | none => s

/-- Check 6 of R127. -/
def PortRecord.busyCheck (r : PortRecord) : Option ResCode :=
  if r.got.mode == .hold || r.line.item.isSome || r.term.state == .testing || r.line.hasHostRequest
      || !r.line.placeAvailable then some .skippedBusy
  else none

/-- The answer to a start claim: none to start, or the code of the first check that fails (R127). -/
def PortRecord.startCheck (clock : Time) (w : Work) (r : PortRecord) : Option ResCode :=
  if r.term.state == .absent then some .skippedAbsent
  else if r.feed.state == .fault || r.feed.state == .cycling || r.feed.state == .tripped then
    some .skippedFault
  else if r.demandStands then some .skippedDemand
  else if r.term.state == .silent || r.term.state == .unknown then some .skippedSilent
  else match w with
    | .test .. =>
      if (match r.bat.cooldown with | some c => decide (clock < c) | none => false) then some .skippedRecent
      else r.busyCheck
    | .wake _ => if r.shed then some .skippedShed else r.busyCheck

/-- A test item starts: it is current in HOLDING under the test hold, the target is evaluated, and its TEST is
handed over (R128). -/
def State.startTest (s : State) (p : Port) (i : Item) (load duration : Nat) : State :=
  let t := (s.onPort p fun r =>
    { r with
      line := { r.line with item := some { i with phase := .holding } }
      feed := { r.feed with hold := true } }).evaluate p
  (t.join p { body := .test load duration, owners := [.item i.num] }).getD t

/-- A wake item starts: it is current in REQUESTED and its WAKE is handed over (R128). -/
def State.startWake (s : State) (p : Port) (i : Item) (minutes : Nat) : State :=
  let t := s.onPort p fun r => { r with line := { r.line with item := some { i with phase := .requested } } }
  (t.join p { body := .wake minutes, owners := [.item i.num] }).getD t

/-- A start claim that passes every check (R128). -/
def State.startItem (s : State) (p : Port) (num : Word) (view : ViewNo) (w : Work) : State :=
  match w with
  | .test load duration _ _ =>
    s.startTest p { num := num, view := view, work := w, phase := .holding } load duration
  | .wake minutes => s.startWake p { num := num, view := view, work := w, phase := .requested } minutes

/-! ### Answers and silences -/

/-- The end of a request: an accepted answer, or none (R26). -/
inductive Ending where
  | status (charge : Byte) (volts : Half) (flags : StatusFlags)
  | ack
  | refuse (reason : RefuseReason)
  | noAnswer
deriving DecidableEq, Repr

/-- An answer window of the request in flight is open (R22, R23). -/
def Flight.windowOpen (f : Flight) (now : Ms) : Bool :=
  match f.phase with
  | .firstWindow => decide (now ≤ f.start + Config.firstCloseMs)
  | .repeatWindow => decide (now ≤ f.start + Config.repeatCloseMs)
  | .firstSend | .repeatSend => false

/-- The terminal at rest: AWAKE or ASLEEP as last reported (R4, R5). -/
def PortRecord.restState (r : PortRecord) : TermState := if r.awakeFlag then .awake else .asleep

/-- The terminal state moved by an accepted answer, with ANSWERING on the way out of SILENT or UNKNOWN (R4). -/
def PortRecord.answered (new : TermState) (r : PortRecord) : PortRecord :=
  let r' := { r with term := { r.term with state := new } }
  if (r.term.state == .silent || r.term.state == .unknown) && (new == .asleep || new == .awake) then
    r'.mark .answering
  else r'

/-- Every accepted answer: the last answer time, and a silence count of 0 (R25). -/
def PortRecord.heard (clock : Time) (r : PortRecord) : PortRecord :=
  { r with
    term := { r.term with lastAnswer := some clock }
    sup := { r.sup with silence := 0 } }

/-- An accepted STATUS in the record (R4, R25). -/
def PortRecord.takeStatus (clock : Time) (charge : Byte) (volts : Half) (f : StatusFlags) (r : PortRecord) :
    PortRecord :=
  let before := r.onBattery
  let r1 := r.heard clock
  let r2 := { r1 with term := { r1.term with flags := some f, charge := charge.toNat, volts := volts } }
  let r3 := if f.onBattery && !before then r2.mark .onBattery
    else if !f.onBattery && before then r2.mark .offBattery else r2
  r3.answered (if f.awake then .awake else .asleep)

/-- The awake-until time armed by an ACK of a WAKE: the wake duration for its owner, and the part clock for a
WAKE that has none (R16, R134). -/
def PortRecord.armAwake (clock : Time) (minutes : Nat) (owned : Bool) (r : PortRecord) : PortRecord :=
  if owned then { r with term := { r.term with awakeUntil := some (clock + 60 * minutes), awakeDue := false } }
  else { r with term := { r.term with awakeUntil := some clock, awakeDue := true } }

/-- An accepted ACK of the request `q` in the record (R4, R5, R16, R134). -/
def PortRecord.takeAck (clock : Time) (q : Request) (r : PortRecord) : PortRecord :=
  let r1 := r.heard clock
  match q.body with
  | .wake minutes => (r1.answered .awake).armAwake clock minutes (!q.owners.isEmpty)
  | .sleep => r1.answered .asleep
  | .test .. => (r1.answered .testing).suspendPoll clock
  | .query | .halt | .charge _ => r1.answered r1.restState

/-- An accepted REFUSE in the record (R4). -/
def PortRecord.takeRefuse (clock : Time) (r : PortRecord) : PortRecord :=
  let r1 := r.heard clock
  r1.answered r1.restState

/-- A silence in the record: the count rises, the terminal becomes SILENT, and a restart is called for once the
count reaches a threshold that is not 0 (R12, R13). -/
def PortRecord.takeSilence (r : PortRecord) : PortRecord :=
  let n := countUp r.sup.silence 7
  let r1 := { r with
    term := { r.term with state := .silent }
    sup := { r.sup with
      silence := n
      deferred := r.sup.deferred || (r.setup.threshold != 0 && decide (r.setup.threshold ≤ n)) } }
  if r.term.state == .silent then r1 else r1.mark .silent

/-- The record's part of a request's end. -/
def PortRecord.takeEnding (clock : Time) (q : Request) (e : Ending) (r : PortRecord) : PortRecord :=
  match e with
  | .status c v f => r.takeStatus clock c v f
  | .ack => r.takeAck clock q
  | .refuse _ => r.takeRefuse clock
  | .noAnswer => r.takeSilence

/-- A host task's completion at the end of its request (R160). -/
def State.taskEnding (s : State) (p : Port) (t : TaskRef) (b : Body) (e : Ending) : State :=
  match e with
  | .status c v f => s.complete t .ok ([c, Memory.byte (flagsByte f)] ++ Memory.le16 v.toNat)
  | .ack => match b with
    | .wake _ => s.complete t .ok (optTime (s.port p).term.awakeUntil)
    | .query | .sleep | .test .. | .halt | .charge _ => s.complete t .ok []
  | .refuse why => s.complete t .refused [Memory.byte (refuseCode why)]
  | .noAnswer => s.complete t .noAnswer []

/-- The result window opened by the ACK of a test of `duration` seconds (R129). -/
def resultWindow (now : Ms) (clock : Time) (duration : Nat) : Stamp :=
  { ms := now + 1000 * (duration + Config.resultSlack), sec := clock + (duration + Config.resultSlack) }

/-- The item's part of its TEST's end (R129). -/
def State.testEnding (s : State) (p : Port) (num : Word) (duration : Nat) (e : Ending) : State :=
  match e with
  | .ack => s.onPort p fun r =>
    let r' := r.setPhase .running
    { r' with line := { r'.line with window := some (resultWindow s.ms s.clock duration) } }
  | .refuse _ => s.finishItem p num .refused
  | .noAnswer => s.finishItem p num .noAnswer
  | .status .. => s

/-- The item's part of its WAKE's end (R133). -/
def State.wakeEnding (s : State) (p : Port) (num : Word) (e : Ending) : State :=
  match e with
  | .ack => s.onPort p (PortRecord.setPhase .window)
  | .refuse _ => s.finishItem p num .refused
  | .noAnswer => s.finishItem p num .noAnswer
  | .status .. => s

/-- An item advances or ends at the end of a request it owns: its TEST, its WAKE, the SLEEP that closes it
(WOKE, whatever the outcome), or its HALT (R129, R132, R133). -/
def State.itemEnding (s : State) (p : Port) (num : Word) (b : Body) (e : Ending) : State :=
  match (s.port p).line.item with
  | some i =>
    if i.num == num then
      match b with
      | .test _ duration => s.testEnding p num duration e
      | .wake _ => s.wakeEnding p num e
      | .sleep => s.finishItem p num .woke
      | .halt => s.itemGone p
      | .query | .charge _ => s
    else s
  | none => s

/-- One owner takes the outcome (R26). -/
def State.ownerEnding (s : State) (p : Port) (b : Body) (e : Ending) (o : Owner) : State :=
  match o with
  | .task t => s.taskEnding p t b e
  | .item num => s.itemEnding p num b e
  | .poll => s.onPort p fun r =>
    { r with sup := { r.sup with pollDue := some (s.clock + r.setup.pollInterval) } }
  | .census =>
    if e == .noAnswer then s.census fun c => { c with silent := c.silent + 1 }
    else s.census fun c => { c with answered := c.answered + 1 }
  | .awakeUntil | .feed | .reset => s

/-- The request in flight on port `p` ends: the record takes it, the line falls free, the target is evaluated,
each owner takes the outcome, and a silence restart is taken or lapses (R12, R13, R25, R26). -/
def State.endRequest (s : State) (p : Port) (q : Request) (e : Ending) : State :=
  let t := (s.onPort p fun r =>
    let r' := r.takeEnding s.clock q e
    { r' with line := { r'.line with flight := none } }).evaluate p
  (q.owners.foldl (fun u o => u.ownerEnding p q.body e o) t).settleRestart p

/-- The verdict on a RESULT: the sag within its limit and the end voltage at its minimum or above (R130). -/
def Work.verdict (w : Work) (start min final : Half) : Bool :=
  decide ((start.toNat : Int) - min.toNat ≤ w.sag) && decide (w.endMin ≤ final.toNat)

/-- A verdict in the battery health record, with its cooldown and TEST_DONE (R131). -/
def PortRecord.takeVerdict (clock : Time) (pass : Bool) (start min final : Half) (charge : Byte)
    (r : PortRecord) : PortRecord :=
  PortRecord.mark .testDone { r with
    bat := { last := some { time := clock, pass := pass, start := start, min := min, final := final,
                            charge := charge.toNat }
             cooldown := some (clock + Config.testCooldown) } }

/-- A TESTING terminal leaves that state (R5). -/
def PortRecord.leaveTesting (r : PortRecord) : PortRecord :=
  if r.term.state == .testing then { r with term := { r.term with state := r.restState } } else r

/-- A RESULT accepted: the window closes, the record takes the answer, and the item its verdict (R24, R130). -/
def State.takeResult (s : State) (p : Port) (start min final : Half) (charge : Byte) : State :=
  let t := s.onPort p fun r =>
    let r' := (r.heard s.clock).leaveTesting
    { r' with line := { r'.line with window := none } }
  let u := match (s.port p).line.item with
    | some i =>
      let pass := i.work.verdict start min final
      (t.onPort p (PortRecord.takeVerdict s.clock pass start min final charge)).finishItem p i.num
        (if pass then .passed else .failed)
    | none => t.evaluate p
  u.settleRestart p

/-- The result window runs out: the terminal leaves TESTING and the item, with NO_RESULT, waits for its HALT
(R5, R129). -/
def State.expireWindow (s : State) (p : Port) : State :=
  let t := s.onPort p fun r =>
    let r' := r.leaveTesting
    { r' with line := { r'.line with window := none } }
  match (s.port p).line.item with
  | some i => (t.fixResult p i.num .noResult).itemHalts p i.num
  | none => t.evaluate p

end Sys2Proof.Machine
end

