-- ==== Sys2Proof/Machine/ModeOps.lean ====
section
/-! DEFINITION. Changes of part mode and their hand-over (R94 to R100), the cutoff judgement (R87 to R89), and
the start of a hold census (R101). -/

namespace Sys2Proof.Machine

/-- The mode handed to the budget unit, every fitted port controller, the campaign engine and the gateway feed
controller (R94). -/
def State.handMode (s : State) (m : Mode) : State :=
  let t := s.onFitted fun r => { r with box := { r.box with modes := r.box.modes ++ [m] } }
  { t with
    bu := { t.bu with modes := t.bu.modes ++ [m] }
    ce := { t.ce with modes := t.ce.modes ++ [m] }
    gw := { t.gw with modes := t.gw.modes ++ [m] } }

/-- The next alarm a period of `hours` from now gives; none for 0 (R100). -/
def alarmFrom (clock : Time) (hours : Nat) : Option Time :=
  if hours == 0 then none else some (clock + 3600 * hours)

/-- The mode controller's own part of a change of mode (R92, R93, R96, R99, R100). -/
def ModeCtl.change (c : ModeCtl) (m : Mode) : ModeCtl :=
  { c with
    mode := m
    modeTime := c.clock
    lossTimer := none
    restoreTimer := if m == .mains then none else c.restoreTimer
    holdExits := if c.mode == .hold then countUp c.holdExits 65535 else c.holdExits
    resumed := c.mode == .hold || c.resumed
    nextAlarm := if m == .hold then alarmFrom c.clock c.alarmHours else none }

/-- A change of mode, with MODE_CHANGED, BUDGET_UNSET where mains is lost with the estimate unset, and the
hand-over (R94, R95). -/
def State.changeMode (s : State) (m : Mode) : State :=
  let lost := s.mc.mode == .mains && m == .outage && s.bu.estimate.isNone
  let t := (s.setMc (s.mc.change m)).raise .modeChanged
  (if lost then t.raise .budgetUnset else t).handMode m

/-- A loss of mains taken: OUTAGE, and HOLD to follow if the floor or the cutoff condition stands (R92, R97). -/
def State.loseMains (s : State) : State :=
  let t := s.changeMode .outage
  t.setMc { t.mc with holdNext := t.mc.floorTaken || t.mc.cutoff }

/-- Whether a restore is qualified: MAINS_OK high for the restore qualification time (R93). -/
def ModeCtl.restored (c : ModeCtl) (now : Ms) : Bool :=
  c.mode != .mains && match c.restoreTimer with
    | some t => decide (t.ms + 1000 * c.restoreQual ≤ now)
    | none => false

/-! ### Cutoff (R87 to R89) -/

/-- One sample judged: the timers move, and the condition may come into force or be lifted. -/
def ModeCtl.judge (c : ModeCtl) (volts : Nat) : ModeCtl :=
  if c.cutoff then
    if c.env.cutoff + Config.liftMargin ≤ volts then
      match c.cutLift with
      | some t0 =>
        if t0 + Config.cutoffLift ≤ c.clock then { c with cutoff := false, cutLift := none } else c
      | none => { c with cutLift := some c.clock }
    else { c with cutLift := none }
  else if volts < c.env.cutoff then
    match c.cutEntry with
    | some t0 =>
      if t0 + Config.cutoffEntry ≤ c.clock then
        { c with cutoff := true, cutEntry := none, cutTime := some c.clock }
      else c
    | none => { c with cutEntry := some c.clock }
  else { c with cutEntry := none }

/-- A change of the cutoff condition: CUTOFF raised, the change handed to the ports, and HOLD entered or left
(R89, R97, R99). -/
def State.cutoffChanged (s : State) : State :=
  let on := s.mc.cutoff
  let t := (s.raise .cutoff).onFitted fun r => { r with box := { r.box with cutoffs := r.box.cutoffs ++ [on] } }
  if on && t.mc.mode == .outage then t.changeMode .hold
  else if !on && t.mc.mode == .hold && !t.mc.floorTaken then t.changeMode .outage
  else t

/-- The mode controller takes a bank voltage (R87, R88). -/
def State.judgeCutoff (s : State) (volts : Nat) : State :=
  let t := s.setMc (s.mc.judge volts)
  if t.mc.cutoff == s.mc.cutoff then t else t.cutoffChanged

/-! ### The hold census (R101) -/

/-- The ports a census would ask. -/
def PortRecord.canAsk (r : PortRecord) : Bool := r.lineOpen && r.dem.state == .idle

/-- A census begins: its claims go to every fitted port; with no port to ask it is DONE at once (log 12). -/
def State.startCensus (s : State) : State :=
  let asked := s.fittedPorts.any fun p => (s.port p).canAsk
  let c : Census := { state := .running, start := some s.clock, asked := 0, answered := 0, silent := 0, lost := 0,
                      unanswered := if asked then fitCount s.mc.fit else 0 }
  let t := s.setMc { s.mc with census := c }
  if asked then t.onFitted fun r => { r with box := { r.box with census := true } } else t.censusSettle

/-- A census query joins port `p`'s line: merged with a QUERY, in a free place, or lost (R30). -/
def State.askPort (s : State) (p : Port) : State :=
  let r := s.port p
  if r.line.hasQuery then s.onPort p fun r => { r with line := r.line.mergeQuery .census }
  else if r.line.general.length < 4 then
    s.onPort p fun r =>
      { r with line := { r.line with general := r.line.general ++ [{ body := .query, owners := [.census] }] } }
  else s.censusLost 1

end Sys2Proof.Machine
end

