-- ==== Sys2Proof/Machine/GatewayOps.lean ====
section
/-! DEFINITION. The gateway feed controller: forcing (R140, R141), wakes (R143), rests (R142), the end of
BOOT_WAIT (R139), and the gateway feed output (section 9-1). -/

namespace Sys2Proof.Machine

/-- The gateway feed is on in ON and GRACE (section 9-1). -/
def Gateway.feedOn (g : Gateway) : Bool := g.state == .on || g.state == .grace

/-- The forcing condition (R140). -/
def Gateway.mustForce (g : Gateway) : Bool :=
  g.mode == .hold || (g.mode == .outage && decide (g.shedLimit ≤ g.shed))

/-- ON with no rest and no mask. -/
def Gateway.restEnded (g : Gateway) : Gateway :=
  { g with state := .on, grace := none, graceEnd := none, rest := .none, mask := 0 }

/-- The state moved as forcing begins (R141). -/
def Gateway.forced (g : Gateway) (clock : Time) : Gateway :=
  match g.state with
  | .on => { g with state := .grace, grace := some .forced, graceEnd := some (clock + Config.forcedGrace),
                    rest := .none, mask := 0 }
  | .grace =>
    if g.grace == some .voluntary then
      { g with grace := some .forced, graceEnd := some (clock + Config.forcedGrace), rest := .none, mask := 0 }
    else g
  | .restOff => { g with state := .forcedOff, rest := .none, mask := 0 }
  | .forcedOff | .bootWait => g

/-- The state is one that the end of forcing leads back to ON, with FORCED_END (R141). -/
def Gateway.underForce (g : Gateway) : Bool :=
  g.state == .forcedOff || (g.state == .grace && g.grace == some .forced)

/-- The forcing condition judged afresh (R140, R141). -/
def State.judgeForcing (s : State) : State :=
  let must := s.gw.mustForce
  if must && !s.gw.forcing then
    let t := s.setGw { s.gw.forced s.clock with forcing := true }
    if s.gw.state == .bootWait then t else t.raise .gatewayForced
  else if !must && s.gw.forcing then
    if s.gw.underForce then (s.setGw { s.gw.restEnded with forcing := false }).setCause .forcedEnd
    else s.setGw { s.gw with forcing := false }
  else s

/-- A rest that a wake condition ends: an IDLE rest, a voluntary grace, or REST_OFF (R143). -/
def Gateway.resting (g : Gateway) : Bool :=
  (g.state == .on && g.rest == .idle) || (g.state == .grace && g.grace == some .voluntary)
    || g.state == .restOff

/-- A wake condition taken: one in the mask ends a rest and sets its cause bit (R143). The part status record is asked
for here, since the same event may begin the rest again and leave its fields as they were (R142, R146). -/
def State.takeWake (s : State) (c : WakeCond) : State :=
  if s.gw.resting && s.gw.holds c then ((s.setGw s.gw.restEnded).setCause (condCause c)).ask .partStatus else s

/-- Every waiting wake condition taken, oldest first. -/
def State.drainWakes (s : State) : State :=
  s.gw.wakes.foldl State.takeWake (s.setGw { s.gw with wakes := [] })

/-- Entry to MAINS ends a BOOT_WAIT: the feed comes on and BOOT is set (R139). -/
def State.endBootWait (s : State) : State :=
  if s.gw.state == .bootWait then (s.setGw { s.gw with state := .on }).setCause .boot else s

/-- The gateway feed controller takes a mode: forcing is judged, and MAINS ends a BOOT_WAIT and is a wake
condition (R139, R140, R143, log 6). -/
def State.gatewayMode (s : State) (m : Mode) : State :=
  let t := (s.setGw { s.gw with mode := m }).judgeForcing
  if m == .mains then t.endBootWait.takeWake .mains else t

/-- An IDLE rest asked for (R142). -/
def Gateway.idleRest (g : Gateway) (mask : BitVec 4) : Gateway :=
  match g.state with
  | .on => { g with rest := .idle, mask := mask }
  | .grace =>
    if g.grace == some .voluntary then { g.restEnded with rest := .idle, mask := mask } else g
  | .restOff | .forcedOff | .bootWait => g

/-- An OFF rest asked for (R142). -/
def Gateway.offRest (g : Gateway) (clock : Time) (mask : BitVec 4) : Gateway :=
  match g.state with
  | .on => { g with state := .grace, grace := some .voluntary, graceEnd := some (clock + g.graceTime),
                    rest := .off, mask := mask }
  | .grace => if g.grace == some .voluntary then { g with mask := mask } else g
  | .restOff | .forcedOff | .bootWait => g

/-- The rest a GATEWAY REST begins (R142). -/
def Gateway.takeRest (g : Gateway) (clock : Time) (off : Bool) (mask : BitVec 4) : Gateway :=
  if off then g.offRest clock mask else g.idleRest mask

/-- A grace at its end: the feed is switched off (R141, R142). -/
def Gateway.graceOver (g : Gateway) : Gateway :=
  { g with
    state := if g.grace == some .forced then .forcedOff else .restOff
    grace := none
    graceEnd := none }

/-- What the RESET line does: an IDLE rest ends; every other state stands (R139). -/
def Gateway.onReset (g : Gateway) : Gateway :=
  if g.rest == .idle then { g with rest := .none, mask := 0 } else g

end Sys2Proof.Machine
end

