-- ==== Sys2Proof/Machine/EngineOps.lean ====
section
/-! DEFINITION. The campaign engine's operations: places (R105 to R107), eligibility (R108), selection (R110,
R111), preemption and drains (R112 to R114), the walk (R115), rounds (R119), and endings (R121 to R123). -/

namespace Sys2Proof.Machine

/-! ### Places -/

/-- The waiting list has room: the active place counts as one of the eight (R105). -/
def Engine.room (e : Engine) : Bool :=
  decide (e.waiting.length + (if e.active.isSome then 1 else 0) < Config.waitingRoom)

/-- The lowest view number no held campaign uses (R106). -/
def Engine.freeView (e : Engine) : Option ViewNo := allViews.find? fun v => e.held.all fun c => c.view != v

/-- Campaign `a` stands ahead of `b` in the waiting list (R107). -/
def Campaign.ahead (a b : Campaign) : Bool :=
  decide (b.plan.priority < a.plan.priority)
    || (a.plan.priority == b.plan.priority && decide (a.arrival < b.arrival))

/-- A campaign put in its place in the waiting list (R107). -/
def placeCampaign (c : Campaign) : List Campaign → List Campaign
  | [] => [c]
  | h :: rest => if c.ahead h then c :: h :: rest else h :: placeCampaign c rest

def Engine.setActive (e : Engine) (c : Option Campaign) : Engine := { e with active := c }

/-- The active campaign leaves for the waiting list (R119 to R121). -/
def Engine.toWaiting (e : Engine) (c : Campaign) : Engine :=
  { e with active := none, waiting := placeCampaign c e.waiting }

/-! ### Eligibility and selection (R108, R110) -/

/-- The mode condition is met (R108). -/
def Campaign.condMet (c : Campaign) (m : Mode) : Bool := !c.plan.outageOnly || m == .outage

/-- A campaign of the waiting list is eligible (R108). -/
def Engine.eligible (e : Engine) (clock : Time) (c : Campaign) : Bool :=
  (match c.notBefore with | some t => decide (t ≤ clock) | none => true)
    && c.condMet e.mode && e.mode != .hold && (c.admitted || decide (e.admission ≤ c.plan.priority))

/-- The best eligible campaign: the first in list order (R108). -/
def Engine.best (e : Engine) (clock : Time) : Option Campaign := e.waiting.find? (e.eligible clock)

/-- The stack top, when its mode condition is met (R110). -/
def Engine.resumable (e : Engine) : Option Campaign :=
  match e.stack with
  | c :: _ => if c.condMet e.mode then some c else none
  | [] => none

/-- The stack top popped. -/
def Engine.pop (e : Engine) : Engine := { e with stack := e.stack.tail }

/-- A campaign leaves the waiting list. -/
def Engine.unlist (e : Engine) (c : Campaign) : Engine :=
  { e with waiting := e.waiting.filter fun d => d.view != c.view }

/-- The selection: the campaign chosen and the engine without it in its old place (R110). -/
def Engine.select (e : Engine) (clock : Time) : Option (Campaign × Engine) :=
  let full := decide (Config.waitingRoom ≤ e.waiting.length)
  match e.resumable, e.best clock with
  | some a, some b =>
    if full || decide (a.plan.priority < b.plan.priority) then some (b, e.unlist b) else some (a, e.pop)
  | some a, none => if full then none else some (a, e.pop)
  | none, some b => some (b, e.unlist b)
  | none, none => none

/-- The result map at the start of a round (R106, R111). -/
def freshMap (ports : BitVec 64) : Vector ResCode 64 :=
  Vector.ofFn fun p : Port => if ports.getLsbD p.val then .pending else .notInSet

/-- The campaign made active: RUNNING, admitted, and at the start of a new round if it has none or its cursor
stands at 64 (R111). -/
def Campaign.activate (c : Campaign) (clock : Time) : Campaign :=
  let c' := { c with state := .running, drain := none, admitted := true, notBefore := none }
  if c.roundStart.isNone || c.cursor == 64 then
    { c' with roundStart := some clock, cursor := 0, map := freshMap c.plan.ports }
  else c'

/-! ### Results (R118) -/

/-- The total a final code belongs to raised by 1, saturating (R118). -/
def Totals.add (t : Totals) (k : ResCode) : Totals :=
  match k with
  | .pending | .notInSet | .inFlight => t
  | .passed => { t with passed := countUp t.passed 65535 }
  | .failed => { t with failed := countUp t.failed 65535 }
  | .woke => { t with woke := countUp t.woke 65535 }
  | .refused => { t with refused := countUp t.refused 65535 }
  | .noAnswer | .noResult => { t with noResult := countUp t.noResult 65535 }
  | .abortedDemand | .abortedRestart | .abortedHold | .abortedHost =>
    { t with aborted := countUp t.aborted 65535 }
  | .skippedAbsent | .skippedSilent | .skippedFault | .skippedShed | .skippedRecent | .skippedBusy
  | .skippedDemand => { t with skipped := countUp t.skipped 65535 }

/-- A final code written for a port that holds none yet (R117, R118). -/
def Campaign.write (c : Campaign) (p : Port) (k : ResCode) : Campaign :=
  if c.map[p.val].final then c else { c with map := c.map.set p.val k, totals := c.totals.add k }

/-- The entry of the in-flight set with an item number. -/
def Campaign.entry (c : Campaign) (num : Word) : Option Entry := c.flying.find? fun e => e.num == num

def Campaign.dropEntry (c : Campaign) (num : Word) : Campaign :=
  { c with flying := c.flying.filter fun e => e.num != num }

/-- A "started" answer marks its entry (R116). -/
def Campaign.markStarted (c : Campaign) (num : Word) : Campaign :=
  { c with flying := c.flying.map fun e => if e.num == num then { e with started := true } else e }

/-! ### Endings -/

/-- The kind fields of a campaign's result (section 12-4). -/
def Campaign.resultFields (c : Campaign) : List Byte :=
  [Memory.byte c.roundsDone, 0] ++ c.totals.list.flatMap Memory.le16

/-- A campaign, already out of its place, ends with a status: its slot completes, and its view number shows it
as ENDED (R119, R122 to R124). -/
def State.endCampaign (s : State) (c : Campaign) (st : Status) : State :=
  let c' := { c with state := .ended, drain := none, flying := [], endStatus := some st }
  (s.setCe { s.ce with ended := s.ce.ended.set c.view.val (some c') }).complete c.task st c.resultFields

/-- An item claim handed to a port controller (R116, R121). -/
def State.handItem (s : State) (p : Port) (m : ItemClaim) : State :=
  s.onPort p fun r => { r with box := { r.box with items := r.box.items ++ [m] } }

/-- The items in flight without a final code aborted with `k`: the code written, and the claims handed (R121 to
R123). -/
def State.abortItems (s : State) (c : Campaign) (k : ResCode) : State × Campaign :=
  c.flying.foldl (fun (t, d) e =>
    if d.map[e.port.val].final then (t, d) else (t.handItem e.port (.abort e.num k), d.write e.port k)) (s, c)

/-- A round ends: the campaign ends OK or rests until its not-before time (R119). -/
def State.endRound (s : State) (c : Campaign) : State :=
  let c' := { c with roundsDone := c.roundsDone + 1, drain := none }
  if c'.roundsDone == c.plan.rounds then (s.setCe (s.ce.setActive none)).endCampaign c' .ok
  else
    s.setCe (s.ce.toWaiting { c' with
      state := .resting
      notBefore := some (c.roundStart.getD 0 + 60 * c.plan.interval) })

/-- The campaign rests with no not-before time, its round kept (R120, R121). -/
def State.restMidRound (s : State) (c : Campaign) : State :=
  s.setCe (s.ce.toWaiting { c with state := .resting, drain := none, notBefore := none })

/-! ### The walk (R115, R116) -/

/-- The lowest port of the set at or above the cursor. -/
def Campaign.nextPort (c : Campaign) : Option Port :=
  allPorts.find? fun p => decide (c.cursor ≤ p.val) && c.plan.ports.getLsbD p.val

/-- The walk may step (R115). -/
def Campaign.mayStep (c : Campaign) : Bool :=
  decide (c.cursor < 64) && c.flying.all (·.started) && decide (c.flying.length < c.plan.concurrency)

/-- The parameters a start claim carries: a TEST's load code is cut to the maximum in force (R116). -/
def Work.cut (w : Work) (loadMax : Nat) : Work :=
  match w with
  | .test load d sag e => .test (min load loadMax) d sag e
  | .wake m => .wake m

/-- One step of the walk (R115). -/
def State.walkStep (s : State) (c : Campaign) : State :=
  match c.nextPort with
  | none => s.setCe (s.ce.setActive (some { c with cursor := 64 }))
  | some p =>
    let num := s.ce.items + 1
    let c' := { c with
      flying := c.flying ++ [{ port := p, num := num, started := false }]
      map := c.map.set p.val .inFlight
      cursor := p.val + 1 }
    (s.setCe { s.ce with active := some c', items := num }).handItem p
      (.start num c.view (c.plan.work.cut s.mc.env.loadMax))

/-! ### The engine's next move (R110 to R115, R119, R120, R122; log 22) -/

/-- The active campaign is outranked by an eligible waiting one (R112, R113). -/
def Engine.outranked (e : Engine) (clock : Time) (c : Campaign) : Bool :=
  match e.best clock with
  | some b => decide (c.plan.priority < b.plan.priority)
  | none => false

/-- The drain begins, with its reason (R112, R115, R120, R122). -/
def Campaign.drainFor (c : Campaign) (why : DrainReason) : Campaign := { c with state := .draining, drain := some why }

/-- The end of a drain, the in-flight set being empty (R113, R119, R120, R122). -/
def State.endDrain (s : State) (c : Campaign) : State :=
  match c.drain with
  | some .suspend =>
    if s.ce.outranked s.clock c then
      s.setCe { s.ce with active := none, stack := { c with state := .suspended, drain := none } :: s.ce.stack }
    else s.setCe (s.ce.setActive (some { c with state := .running, drain := none }))
  | some .rest => s.endRound c
  | some .mode => s.restMidRound c
  | some .cancel => (s.setCe (s.ce.setActive none)).endCampaign c .cancelled
  | none => s

/-- What a RUNNING campaign does next: it walks, ends its round, or drains (R112, R115, R119). -/
def State.runMove (s : State) (c : Campaign) : Option State :=
  if c.mayStep then some (s.walkStep c)
  else if c.cursor == 64 then
    if c.flying.isEmpty then some (s.endRound c)
    else some (s.setCe (s.ce.setActive (some (c.drainFor .rest))))
  else if decide (s.ce.stack.length < Config.stackRoom) && s.ce.outranked s.clock c then
    some (s.setCe (s.ce.setActive (some (c.drainFor .suspend))))
  else none

/-- The engine's next move; none when it has none to make. A campaign made active has its view and the part status
record rewritten (R111). -/
def State.engineMove (s : State) : Option State :=
  match s.ce.active with
  | none =>
    if s.ce.mode == .hold then none
    else match s.ce.select s.clock with
      | some (c, e) =>
        some (((s.setCe (e.setActive (some (c.activate s.clock)))).ask (.campaign c.view)).ask .partStatus)
      | none => none
  | some c =>
    match c.state with
    | .running => s.runMove c
    | .draining => if c.flying.isEmpty then some (s.endDrain c) else none
    | .waiting | .suspended | .resting | .ended => none

/-- The engine moves until it has no move to make: every round it begins hands a claim, which it then waits on,
so the bound is never met. -/
def State.runEngine : Nat → State → State
  | 0, s => s
  | fuel + 1, s =>
    match s.engineMove with
    | some t => State.runEngine fuel t
    | none => s

/-- More moves than one event can make. -/
def engineSteps : Nat := 64

/-- The engine runs on from the change just made. -/
def State.settleEngine (s : State) : State := State.runEngine engineSteps s

/-! ### Modes, cancels and CLEAR (R114, R120 to R123) -/

/-- HOLD takes the active campaign (R121). -/
def State.engineHold (s : State) : State :=
  match s.ce.active with
  | none => s
  | some c =>
    let (t, d) := s.abortItems c .abortedHold
    let c' := { d with flying := [] }
    match c'.drain with
    | some .rest => t.endRound c'
    | some .cancel => (t.setCe (t.ce.setActive none)).endCampaign c' .cancelled
    | some .suspend | some .mode | none => t.restMidRound c'

/-- MAINS or OUTAGE meets the active campaign's mode condition or loses it (R114, R120). -/
def Campaign.meetMode (c : Campaign) (m : Mode) : Campaign :=
  if c.condMet m then
    if c.drain == some .mode then { c with state := .running, drain := none } else c
  else if c.state == .running || c.drain == some .suspend then c.drainFor .mode
  else c

/-- The engine takes a mode (R94, R120, R121). -/
def State.engineMode (s : State) (m : Mode) : State :=
  let t := s.setCe { s.ce with mode := m }
  if m == .hold then t.engineHold
  else (t.setCe (t.ce.setActive (t.ce.active.map fun c => c.meetMode m))).settleEngine

/-- A cancel meets the active campaign (R122). -/
def State.cancelActive (s : State) (c : Campaign) : State :=
  if c.drain == some .cancel then s
  else
    let (t, d) := s.abortItems c .abortedHost
    (t.setCe (t.ce.setActive (some (d.drainFor .cancel)))).settleEngine

/-- The claim of a campaign still waits to be taken. -/
def Engine.claimed (e : Engine) (t : TaskRef) : Bool :=
  e.claims.any fun k => match k with
    | .campaign u _ => u == t
    | .clear => false

/-- A forwarded cancel, by the place of its campaign (R122). -/
def State.engineCancel (s : State) (t : TaskRef) : State :=
  match s.ce.active.filter fun c => c.task == t with
  | some c => s.cancelActive c
  | none =>
    match s.ce.waiting.find? (fun c => c.task == t), s.ce.stack.find? (fun c => c.task == t) with
    | some c, _ => ((s.setCe (s.ce.unlist c)).endCampaign c .cancelled).settleEngine
    | none, some c =>
      ((s.setCe { s.ce with stack := s.ce.stack.filter fun d => d.view != c.view }).endCampaign c
        .cancelled).settleEngine
    | none, none => if s.ce.claimed t then s.setCe { s.ce with kept := s.ce.kept ++ [t] } else s

/-- CLEAR: every campaign ends CLEARED, the active one's items aborted (R123). -/
def State.engineClear (s : State) : State :=
  let (t, active) : State × List Campaign := match s.ce.active with
    | some c => let (u, d) := s.abortItems c .abortedHost; (u, [d])
    | none => (s, [])
  let all := active ++ s.ce.stack ++ s.ce.waiting
  all.foldl (fun u c => u.endCampaign c .cleared)
    (t.setCe { t.ce with active := none, stack := [], waiting := [] })

/-- The record of a newly accepted campaign (R106). -/
def newCampaign (t : TaskRef) (plan : CampaignPlan) (arrival : Nat) (view : ViewNo) : Campaign :=
  { task := t, plan := plan, arrival := arrival, view := view, state := .waiting, drain := none,
    admitted := false, roundsDone := 0, roundStart := none, cursor := 0, flying := [], notBefore := none,
    map := freshMap plan.ports,
    totals := { passed := 0, failed := 0, woke := 0, skipped := 0, aborted := 0, noResult := 0, refused := 0 },
    endStatus := none }

/-- The ports below the fitted count of a 64-bit set (R106). -/
def fittedSet (fit : FitStrap) (ports : BitVec 64) : BitVec 64 :=
  BitVec.ofNat 64 (ports.toNat % 2 ^ fitCount fit)

/-- The zero totals and rounds of a campaign cancelled before its claim was taken (R122). -/
def noRounds : List Byte := Memory.zeros 16

/-- The engine takes a CAMPAIGN claim (R106, R122, R164). -/
def State.takeCampaign (s : State) (t : TaskRef) (plan : CampaignPlan) : State :=
  if s.ce.kept.contains t then
    (s.setCe { s.ce with kept := s.ce.kept.filter fun u => u != t }).complete t .cancelled noRounds
  else if !s.ce.room then s.complete t .noRoom []
  else match s.ce.freeView with
    | none => s.complete t .noRoom []
    | some v =>
      let n := s.ce.arrivals + 1
      let c := newCampaign t { plan with ports := fittedSet s.mc.fit plan.ports } n v
      (s.setCe { s.ce with waiting := placeCampaign c s.ce.waiting, arrivals := n }).settleEngine

end Sys2Proof.Machine
end

