-- ==== Sys2Proof/Machine/Operands.lean ====
section
/-! DEFINITION. Reading the host's bytes: every form of task card (section 12-3) with the intake's checks (R158,
section 11-3). -/

namespace Sys2Proof.Machine

/-- The settings of a BUDGET SETUP card (R59). -/
structure BudgetCard where
  capacity : Nat
  estimate : Nat
  keep : Bool
  thresholds : Thresholds
  shedLimit : Nat
  grace : Nat
  restoreQual : Nat
  alarmHours : Nat
deriving DecidableEq, Repr

/-- A card that has passed the intake's range checks. -/
inductive Card where
  | portSetup (p : Port) (setup : Setup)
  | portPoll (p : Port)
  | portWake (p : Port) (minutes : Nat)
  | portSleep (p : Port)
  | portRestart (p : Port)
  | portClear (p : Port)
  | budget (b : BudgetCard)
  | envelope (e : Envelope)
  | campaign (plan : CampaignPlan)
  | admission (level : Nat)
  | rest (off : Bool) (mask : BitVec 4)
  | clear
deriving DecidableEq, Repr

/-! ### Fields -/

/-- Byte `i` of a card half. -/
def cardByte (c : List Byte) (i : Nat) : Nat := (c.getD i 0).toNat

/-- The 16-bit field at byte `i`, lowest byte first. -/
def cardHalf (c : List Byte) (i : Nat) : Nat := Memory.number ((c.drop i).take 2)

/-- The 64-bit set at byte `i`. -/
def cardSet (c : List Byte) (i : Nat) : BitVec 64 := BitVec.ofNat 64 (Memory.number ((c.drop i).take 8))

/-- The tag of a card (section 12-3). -/
def cardTag (c : List Byte) : Half := BitVec.ofNat 16 (cardHalf c 2)

/-- A number within its range. -/
def within (lo hi n : Nat) : Bool := decide (lo ≤ n) && decide (n ≤ hi)

/-! ### Kinds -/

/-- PORT SETUP (section 12-3; ranges of section 11-3). -/
def readPolicy (code eighths : Nat) : Option Policy :=
  if code == 0 then some .full
  else if code == 1 then (if within 1 7 eighths then some (.duty eighths) else none)
  else if code == 2 then some .bias
  else none

def readWish (code : Nat) : Option FeedWish :=
  if code == 0 then some .auto
  else if code == 1 then some .forceBias
  else if code == 2 then some .disabled
  else none

def readSetup (limitMax : Nat) (c : List Byte) : Option Setup :=
  match readPolicy (cardByte c 7) (cardByte c 8), readWish (cardByte c 9) with
  | some policy, some wish =>
    if within 0 3 (cardByte c 5) && within 1 63 (cardByte c 6) && decide (cardByte c 6 ≤ limitMax)
        && within 30 3600 (cardHalf c 10) && within 0 7 (cardByte c 12) then
      some { tier := cardByte c 5, limit := cardByte c 6, policy := policy, wish := wish,
             pollInterval := cardHalf c 10, threshold := cardByte c 12 }
    else none
  | _, _ => none

/-- BUDGET SETUP. -/
def readBudget (c : List Byte) : Option BudgetCard :=
  if within 1 65535 (cardHalf c 4) && within 0 1 (cardByte c 8) && within 1 4 (cardByte c 16)
      && within 5 120 (cardByte c 17) && within 10 600 (cardHalf c 18) && within 0 24 (cardByte c 20) then
    some { capacity := cardHalf c 4, estimate := cardHalf c 6, keep := cardByte c 8 == 1,
           thresholds := { t3 := cardHalf c 10, t2 := cardHalf c 12, t1 := cardHalf c 14 },
           shedLimit := cardByte c 16, grace := cardByte c 17, restoreQual := cardHalf c 18,
           alarmHours := cardByte c 20 }
  else none

/-- ENVELOPE, which the intake does not check (R158). -/
def readEnvelope (c : List Byte) : Envelope :=
  { ceiling := cardHalf c 4, floor := cardHalf c 6, cutoff := cardHalf c 8, limitMax := cardByte c 10,
    loadMax := cardByte c 11 }

/-- The parameters of a CAMPAIGN card's own kind. -/
def readWork (loadMax : Nat) (c : List Byte) : Option Work :=
  if cardByte c 4 == 0 then
    if within 1 15 (cardByte c 20) && decide (cardByte c 20 ≤ loadMax) && within 10 600 (cardHalf c 22)
        && within 1 1000 (cardHalf c 24) then
      some (.test (cardByte c 20) (cardHalf c 22) (cardHalf c 24) (cardHalf c 26))
    else none
  else if cardByte c 4 == 1 then
    if within 1 255 (cardByte c 28) then some (.wake (cardByte c 28)) else none
  else none

/-- CAMPAIGN. -/
def readCampaign (fit : FitStrap) (loadMax : Nat) (c : List Byte) : Option CampaignPlan :=
  match readWork loadMax c with
  | some w =>
    if within 0 3 (cardByte c 5) && within 1 255 (cardByte c 6) && within 1 8 (cardByte c 7)
        && within 0 1440 (cardHalf c 8) && within 0 1 (cardByte c 10)
        && fittedSet fit (cardSet c 12) != 0 then
      some { work := w, priority := cardByte c 5, ports := cardSet c 12, rounds := cardByte c 6,
             interval := cardHalf c 8, concurrency := cardByte c 7, outageOnly := cardByte c 10 == 1 }
    else none
  | none => none

/-- GATEWAY REST. -/
def readRest (c : List Byte) : Option Card :=
  if within 0 1 (cardByte c 4) && within 0 15 (cardByte c 5)
      && !(cardByte c 4 == 1 && cardByte c 5 == 0) then
    some (.rest (cardByte c 4 == 1) (BitVec.ofNat 4 (cardByte c 5)))
  else none

/-- The port a port task names, if it is fitted. -/
def readPort (fit : FitStrap) (c : List Byte) : Option Port :=
  if h : cardByte c 4 < 64 then
    if cardByte c 4 < fitCount fit then some ⟨cardByte c 4, h⟩ else none
  else none

/-- What the intake makes of a card: a checked card, or the status of the first check that fails. -/
inductive Read where
  | ok (card : Card)
  | bad (st : Status)
deriving DecidableEq, Repr

/-- A range check's answer. -/
def inRange (c : Option Card) : Read :=
  match c with
  | some card => .ok card
  | none => .bad .badField

/-- A port task: NO_PORT before BAD_FIELD (R158). -/
def readPortTask (fit : FitStrap) (c : List Byte) (k : Port → Option Card) : Read :=
  match readPort fit c with
  | some p => inRange (k p)
  | none => .bad .noPort

/-- The kind of a card is one of the twelve codes 1 to 12 (section 12-3). -/
def readCard (fit : FitStrap) (limitMax loadMax : Nat) (c : List Byte) : Read :=
  match cardByte c 0 with
  | 1 => readPortTask fit c fun p => (readSetup limitMax c).map (Card.portSetup p)
  | 2 => readPortTask fit c fun p => some (.portPoll p)
  | 3 => readPortTask fit c fun p =>
    if within 1 255 (cardByte c 5) then some (.portWake p (cardByte c 5)) else none
  | 4 => readPortTask fit c fun p => some (.portSleep p)
  | 5 => readPortTask fit c fun p => some (.portRestart p)
  | 6 => readPortTask fit c fun p => some (.portClear p)
  | 7 => inRange ((readBudget c).map Card.budget)
  | 8 => .ok (.envelope (readEnvelope c))
  | 9 => inRange ((readCampaign fit loadMax c).map Card.campaign)
  | 10 => inRange (if within 0 3 (cardByte c 4) then some (.admission (cardByte c 4)) else none)
  | 11 => inRange (readRest c)
  | 12 => .ok .clear
  | _ => .bad .badKind

/-- The order checks of a BUDGET SETUP fail (R163); the floor in force is the envelope's (log 19). -/
def BudgetCard.badOrder (b : BudgetCard) (floor : Nat) : Bool :=
  decide (b.thresholds.t3 ≤ b.thresholds.t2) || decide (b.thresholds.t2 ≤ b.thresholds.t1)
    || decide (b.thresholds.t1 ≤ floor) || decide (b.capacity < b.thresholds.t3)
    || (!b.keep && decide (b.capacity < b.estimate))

/-- A field of an ENVELOPE outside its range (R102, R103). -/
def Envelope.badField (e : Envelope) : Bool :=
  !(within 10 4000 e.ceiling && within 0 65535 e.floor && within 3600 5600 e.cutoff && within 1 63 e.limitMax
    && within 1 15 e.loadMax)

/-- An ENVELOPE in the wrong order (R103). -/
def Envelope.badOrder (e : Envelope) (b : Budget) : Bool :=
  decide (e.ceiling < e.limitMax)
    || (match b.thresholds with | some t => decide (t.t1 ≤ e.floor) | none => false)
    || (match b.capacity with | some c => decide (c < e.floor) | none => false)

end Sys2Proof.Machine
end

