-- ==== Sys2Proof/Machine/IntakeOps.lean ====
section
/-! DEFINITION. What each kind of card does (chapter 11): the kinds decided in the intake's event (R54, R59, R103,
R109, R142, R161, R163, R165) and the hand-over of the others (R151, R158). -/

namespace Sys2Proof.Machine

/-! ### PORT SETUP and PORT CLEAR (R54, R161) -/

/-- A new setup in the record: a poll due time follows a new interval (R11), and a threshold lowered to the
silence count calls for a restart (R13). -/
def PortRecord.takeSetup (clock : Time) (n : Setup) (r : PortRecord) : PortRecord :=
  let calls := decide (n.threshold < r.setup.threshold) && n.threshold != 0
    && decide (n.threshold ≤ r.sup.silence)
  { r with
    setup := n
    sup := { r.sup with
      pollDue := if n.pollInterval == r.setup.pollInterval then r.sup.pollDue
        else r.sup.pollDue.map fun _ => clock + n.pollInterval
      deferred := r.sup.deferred || calls } }

/-- PORT SETUP (R161): the fields, one evaluation, then the limit and the tier told to the budget unit (R47, R48),
and a silence restart called for or lapsed (R13). -/
def State.doSetup (s : State) (p : Port) (n : Setup) : State :=
  ((((s.takeInput p (PortRecord.takeSetup s.clock n)).applyLimit p).applyTier p).settleRestart p).settlePort p

/-- The latch cleared and the trip history emptied (R54). -/
def PortRecord.unlatch (r : PortRecord) : PortRecord := { r with feed := { r.feed with latch := false, trips := [] } }

/-- PORT CLEAR's status (R54). -/
def PortRecord.clearVerdict (r : PortRecord) : Status :=
  if !r.feed.latch then .wrongState else if r.feed.short then .stillActive else .ok

/-- PORT CLEAR (R54). -/
def State.doClearPort (s : State) (p : Port) (t : TaskRef) : State :=
  match (s.port p).clearVerdict with
  | .ok => ((((s.onPort p PortRecord.unlatch).evaluate p).settleRestart p).settlePort p).complete t .ok []
  | st => s.complete t st []

/-! ### BUDGET SETUP (R59, R93, R100, R140) -/

/-- The budget unit's own fields (R59). -/
def Budget.takeSetup (b : Budget) (c : BudgetCard) : Budget :=
  let b' := { b with capacity := some c.capacity, thresholds := some c.thresholds }
  if c.keep then
    match b.estimate with
    | some e => if c.capacity < e then { b' with estimate := some c.capacity, residue := 0 } else b'
    | none => b'
  else { b' with estimate := some c.estimate, residue := 0 }

/-- The mode controller's two fields; in HOLD the alarm is set afresh (R93, R100). -/
def ModeCtl.takeSetup (m : ModeCtl) (c : BudgetCard) : ModeCtl :=
  { m with
    restoreQual := c.restoreQual
    alarmHours := c.alarmHours
    nextAlarm := if m.mode == .hold then alarmFrom m.clock c.alarmHours else m.nextAlarm }

/-- BUDGET SETUP's fields at their owners; a restore that the new time finds qualified is taken at once (R93). -/
def State.doBudget (s : State) (c : BudgetCard) : State :=
  let t := ((s.setBu (s.bu.takeSetup c)).setMc (s.mc.takeSetup c)).evalShed
  let u := (t.setGw { t.gw with shedLimit := c.shedLimit, graceTime := c.grace }).judgeForcing
  if u.mc.restored u.ms then u.changeMode .mains else u

/-- The kind fields of BUDGET SETUP's result (section 12-4). -/
def Budget.setupFields (b : Budget) : List Byte :=
  Memory.le16 (b.capacity.getD 0) ++ [if b.estimate.isSome then 1 else 0, 0] ++ Memory.le16 (b.estimate.getD 0)

/-! ### ENVELOPE (R103) -/

/-- The envelope locked by ACCEPTED and its figures handed on (R102, R103). -/
def State.acceptEnvelope (s : State) (e : Envelope) : State :=
  let t := (s.setMc { s.mc with env := e, lock := some (.accepted, s.clock) }).raise .envelopeLocked
  (t.setBu { t.bu with ceilings := t.bu.ceilings ++ [(e.ceiling, e.floor)] }).onFitted fun r =>
    { r with box := { r.box with limits := r.box.limits ++ [e.limitMax] } }

/-- ENVELOPE (R103). -/
def State.doEnvelope (s : State) (e : Envelope) (t : TaskRef) : State :=
  match s.mc.lock with
  | some (why, time) => s.complete t .locked (Memory.le32 time ++ [Memory.byte why.code])
  | none =>
    if e.badField then s.complete t .badField []
    else if e.badOrder s.bu then s.complete t .badOrder []
    else (s.acceptEnvelope e).complete t .ok (Memory.le32 s.clock)

/-! ### GATEWAY REST (R142) -/

/-- The kind fields of GATEWAY REST's result: the state, grace kind and grace end of the rest to come (log 23). -/
def Gateway.restFields (g : Gateway) : List Byte :=
  [Memory.byte g.state.code, Memory.byte ((g.grace.map GraceKind.code).getD 0), 0, 0] ++ optTime g.graceEnd

/-- GATEWAY REST: waiting conditions are taken, the slot completes with the rest to come, and the rest begins with
the slot's own DONE condition already taken (R142, log 7). -/
def State.doRest (s : State) (off : Bool) (mask : BitVec 4) (t : TaskRef) : State :=
  let u := s.drainWakes
  let own := if u.ex.doneEn.getLsbD t.slot.val then u.takeWake .done else u
  let v := (u.complete t .ok (own.gw.takeRest u.clock off mask).restFields).drainWakes
  v.setGw (v.gw.takeRest v.clock off mask)

/-! ### Handing on (R151, R158, R165) -/

/-- A claim handed to a port controller (R158). -/
def State.handPort (s : State) (p : Port) (c : PortClaim) : State :=
  s.onPort p fun r => { r with box := { r.box with tasks := r.box.tasks ++ [c] } }

/-- A claim handed to the campaign engine (R158). -/
def State.handEngine (s : State) (c : EngineClaim) : State := s.setCe { s.ce with claims := s.ce.claims ++ [c] }

/-- CLEAR: OK at intake, with a claim to the engine and to every fitted port controller (R165). -/
def State.doClear (s : State) (t : TaskRef) : State :=
  ((s.complete t .ok []).handEngine .clear).onFitted fun r =>
    { r with box := { r.box with tasks := r.box.tasks ++ [.clear] } }

/-- The block that will complete a card's task (R153). -/
def Card.owner (c : Card) : SlotOwner :=
  match c with
  | .portPoll p | .portWake p _ | .portSleep p | .portRestart p => .port p
  | _ => .engine

/-- A card that has passed the range checks, done or handed on (R158). -/
def State.doCard (s : State) (t : TaskRef) (c : Card) : State :=
  match c with
  | .portSetup p n => (s.doSetup p n).complete t .ok [Memory.byte n.limit]
  | .portClear p => s.doClearPort p t
  | .portPoll p => s.handPort p (.poll t)
  | .portWake p m => s.handPort p (.wake t m)
  | .portSleep p => s.handPort p (.sleep t)
  | .portRestart p => s.handPort p (.restart t)
  | .budget b =>
    if b.badOrder s.mc.env.floor then s.complete t .badOrder []
    else
      let u := s.doBudget b
      u.complete t .ok u.bu.setupFields
  | .envelope e => s.doEnvelope e t
  | .campaign plan => s.handEngine (.campaign t plan)
  | .admission n =>
    ((s.setCe { s.ce with admission := n }).settleEngine).complete t .ok [Memory.byte n]
  | .rest off mask => s.doRest off mask t
  | .clear => s.doClear t

/-- The intake takes the head of its queue: the slot is TAKEN under the next take number, and the copy of the card
is checked and handed on (R151, R158). -/
def State.takeHead (s : State) (slot : Slot) (rest : List Slot) : State :=
  let card := Memory.run s.ex.mem (slotBase slot) 64
  let n := s.ex.takeNo + 1
  let r := readCard s.mc.fit s.mc.env.limitMax s.mc.env.loadMax card
  let owner := match r with
    | .ok c => c.owner
    | .bad _ => .engine
  let u := s.setEx { s.ex with
    intake := rest
    takeNo := n
    slots := s.ex.slots.set slot.val (.taken n (cardTag card) owner false) }
  let t : TaskRef := { slot := slot, take := n }
  match r with
  | .ok c => u.doCard t c
  | .bad st => u.complete t st []

end Sys2Proof.Machine
end

