-- ==== Sys2Proof/Machine/ExchangeOps.lean ====
section
/-! DEFINITION. The exchange port: what an address reads as (R147), whole writes of active words (R148, R150, R152
to R154, R145), writes by byte (R149), SPI transactions (R147, R148), rewrites (R155, R75), and RESET (R157). -/

namespace Sys2Proof.Machine

/-! ### Active words (section 10-1) -/

/-- The addresses of the active words. -/
def isActiveBase (a : Nat) : Bool :=
  a == 0 || a == 0x10 || a == 0x14 || a == 0x18 || a == 0x1C || a == 0x20 || a == 0x24 || a == 0x28 || a == 0x2C
    || a == 0x30 || a == 0x34

/-- The identity word: part code and fitted count (section 12-1). -/
def identity (fit : FitStrap) : Word := BitVec.ofNat 32 (Config.partCode + 65536 * fitCount fit)

/-- The word that stands at a flag page address below 0x40; the zero areas read 0. -/
def State.activeWord (s : State) (a : Nat) : Word :=
  match a with
  | 0x00 => identity s.mc.fit
  | 0x10 => s.ex.postWord
  | 0x14 => s.ex.cancelWord
  | 0x18 => s.ex.takenWord
  | 0x1C => s.ex.doneWord
  | 0x20 => s.ex.doneEn
  | 0x24 => s.ex.partEvent
  | 0x28 => s.ex.partEventEn
  | 0x2C => s.ex.wakeCause
  | 0x30 => s.attentionWord false
  | 0x34 => s.attentionWord true
  | _ => 0

/-- The port whose status and enable words hold an address of the port status page. -/
def pagePort (a : Nat) : Port := ⟨(a - 0x100) / 4 % 64, Nat.mod_lt _ (by decide)⟩

/-- The port status page: a status word and an enable word for each port (section 1-8), 0 for one that is not
fitted (R1). -/
def State.pageHalf (s : State) (a : Nat) : Half :=
  if s.fitted (pagePort a) then
    if a % 4 < 2 then (s.port (pagePort a)).rep.status else (s.port (pagePort a)).rep.enable
  else 0

/-- An address that reads 0 whatever stands: the zero areas above the flag page (section 10-1) and everything from
0x4000 up (R147). -/
def alwaysZero (a : Nat) : Bool := (decide (0x340 ≤ a) && decide (a < 0x400)) || decide (0x3A00 ≤ a)

/-- What an address reads as at this moment (R147). -/
def State.readByte (s : State) (a : Nat) : Byte :=
  if a < 0x40 then Memory.byte ((s.activeWord (a / 4 * 4)).toNat / 256 ^ (a % 4))
  else if 0x100 ≤ a && a < 0x200 then Memory.byte ((s.pageHalf a).toNat / 256 ^ (a % 2))
  else if alwaysZero a then 0
  else Memory.read s.ex.mem a

/-! ### Whole writes (R148) -/

/-- Slots posted: each FREE slot named joins the tail of the intake queue in ascending order, and any other slot
named makes one POST_CLASH (R150). -/
def State.writePost (s : State) (v : Word) : State :=
  let named := allSlots.filter fun i => v.getLsbD i.val
  let new := named.filter fun i => s.ex.slots[i.val].isFree
  let t := s.setEx { s.ex with
    slots := Vector.ofFn fun i : Slot =>
      if v.getLsbD i.val && s.ex.slots[i.val].isFree then .posted else s.ex.slots[i.val]
    intake := s.ex.intake ++ new }
  if new.length < named.length then t.raise .postClash else t

/-- A cancel forwarded to a slot's owner (R153). -/
def State.forward (s : State) (o : SlotOwner) (t : TaskRef) : State :=
  match o with
  | .port p => s.onPort p fun r => { r with box := { r.box with cancels := r.box.cancels ++ [t] } }
  | .engine => s.setCe { s.ce with cancels := s.ce.cancels ++ [t] }

/-- A cancel asked for one slot (R153). -/
def State.cancelSlot (s : State) (i : Slot) : State :=
  match s.ex.slots[i.val] with
  | .posted =>
    (s.setEx { s.ex with intake := s.ex.intake.filter fun j => j != i }).finishSlot i
      (cardTag (Memory.run s.ex.mem (slotBase i) 64)) .cancelled []
  | .taken take tag owner false =>
    (s.setEx { s.ex with slots := s.ex.slots.set i.val (.taken take tag owner true) }).forward owner
      { slot := i, take := take }
  | .taken _ _ _ true => s
  | .free => s
  | .done => s

/-- Cancels asked for every slot named (R153), in ascending slot order (DESIGN CHOICE, log 35). -/
def State.writeCancel (s : State) (v : Word) : State :=
  (allSlots.filter fun i => v.getLsbD i.val).foldl State.cancelSlot s

/-- DONE slots given back (R152). -/
def State.writeDone (s : State) (v : Word) : State :=
  s.setEx { s.ex with
    slots := Vector.ofFn fun i : Slot =>
      if v.getLsbD i.val && s.ex.slots[i.val].isDone then .free else s.ex.slots[i.val] }

/-- DONE_EN stored (R148). -/
def State.writeDoneEn (s : State) (v : Word) : State := s.setEx { s.ex with doneEn := v }

/-- Part events cleared (R154). -/
def State.writeEvents (s : State) (v : Word) : State := s.setEx { s.ex with partEvent := s.ex.partEvent &&& ~~~v }

/-- PART EVENT ENABLE stored (R154). -/
def State.writeEventEn (s : State) (v : Word) : State := s.setEx { s.ex with partEventEn := v }

/-- Causes cleared (R145). -/
def State.writeCause (s : State) (v : Word) : State := s.setEx { s.ex with wakeCause := s.ex.wakeCause &&& ~~~v }

/-- A whole write to an active word, by its address: a read-only word's raises STRAY_WRITE (R148). -/
def State.writeWord (s : State) (a : Nat) (v : Word) : State :=
  match a with
  | 0x10 => s.writePost v
  | 0x14 => s.writeCancel v
  | 0x1C => s.writeDone v
  | 0x20 => s.writeDoneEn v
  | 0x24 => s.writeEvents v
  | 0x28 => s.writeEventEn v
  | 0x2C => s.writeCause v
  | _ => s.raise .strayWrite

/-- A whole write to a status word of a fitted port (R17, R149). -/
def State.writeStatus (s : State) (p : Port) (v : Half) : State := s.onPort p (PortRecord.clearStatus v)

/-- A whole write to an enable word of a fitted port (R18, R149). -/
def State.writeEnable (s : State) (p : Port) (v : Half) : State :=
  s.onPort p fun r => { r with rep := { r.rep with enable := v } }

/-! ### Writes by byte (R148, R149) -/

/-- The SPI slave's place in a WRITE transaction. -/
def State.spiAt (s : State) (next : Nat) (word : List Byte) (stray : Bool) : State :=
  s.setEx { s.ex with spi := .writing next word stray }

/-- A byte ignored: STRAY_WRITE, once for the transaction. -/
def State.stray (s : State) (next : Nat) (stray : Bool) : State :=
  (if stray then s else s.raise .strayWrite).spiAt next [] true

/-- The slot whose record holds an address. -/
def slotAt (a : Nat) : Slot := ⟨(a - 0x400) / 128 % 32, Nat.mod_lt _ (by decide)⟩

/-- The address lies in the card half of a slot. -/
def inCard (a : Nat) : Bool := decide (0x400 ≤ a) && decide (a < 0x1400) && decide ((a - 0x400) % 128 < 64)

/-- A byte at an active word: the fourth of a word written from its first makes the word take effect, and any
other byte of a word not written from its first is ignored (R148). -/
def State.wordByte (s : State) (a : Nat) (b : Byte) (word : List Byte) (stray : Bool) : State :=
  if word.length == a % 4 then
    if a % 4 == 3 then
      (s.writeWord (a / 4 * 4) (BitVec.ofNat 32 (Memory.number (word ++ [b])))).spiAt (a + 1) [] stray
    else s.spiAt (a + 1) (word ++ [b]) stray
  else s.stray (a + 1) stray

/-- A byte at the port status page: the second of a word written from its first makes it take effect (R149). -/
def State.pageByte (s : State) (a : Nat) (b : Byte) (word : List Byte) (stray : Bool) : State :=
  let p := pagePort a
  if s.fitted p && word.length == a % 2 then
    if a % 2 == 1 then
      let v := BitVec.ofNat 16 (Memory.number (word ++ [b]))
      (if a % 4 < 2 then s.writeStatus p v else s.writeEnable p v).spiAt (a + 1) [] stray
    else s.spiAt (a + 1) (word ++ [b]) stray
  else s.stray (a + 1) stray

/-- One byte the host writes (R147 to R149). -/
def State.hostByte (s : State) (a : Nat) (b : Byte) (word : List Byte) (stray : Bool) : State :=
  if isActiveBase (a / 4 * 4) then s.wordByte a b word stray
  else if 0x100 ≤ a && a < 0x200 then s.pageByte a b word stray
  else if inCard a && s.ex.slots[(slotAt a).val].isFree then
    (s.setEx { s.ex with mem := Memory.write s.ex.mem a [b] }).spiAt (a + 1) [] stray
  else s.stray (a + 1) stray

/-- The next byte of the WRITE transaction in progress; nothing outside one. -/
def State.nextByte (s : State) (b : Byte) : State :=
  match s.ex.spi with
  | .writing a word stray => s.hostByte a b word stray
  | .idle | .blocked | .ignoring | .reading _ => s

/-! ### Transactions (R147; log 15) -/

/-- A WRITE transaction that can go on at address `a`: a new one, which begins at a 16-bit address, or the one in
progress standing there; its word buffer and STRAY flag. -/
def Exchange.writable (e : Exchange) (a : Nat) : Option (List Byte × Bool) :=
  match e.spi with
  | .idle => if a < 0x10000 then some ([], false) else none
  | .writing next word stray => if next == a then some (word, stray) else none
  | .blocked | .ignoring | .reading _ => none

/-- A READ transaction that can go on at address `a`. -/
def Exchange.readable (e : Exchange) (a : Nat) : Bool :=
  match e.spi with
  | .idle => decide (a < 0x10000)
  | .reading next => next == a
  | .blocked | .ignoring | .writing .. => false

/-- A run of data bytes written from `a`, each byte an event of its own (R147). -/
def State.writeRun (s : State) (a : Nat) (bytes : List Byte) : State :=
  match s.ex.writable a with
  | some (word, stray) => bytes.foldl (fun u b => u.finish (u.nextByte b)) (s.spiAt a word stray)
  | none => s

/-- A run of data bytes read from `a` (R147). -/
def State.readRun (s : State) (a count : Nat) : State :=
  s.setEx { s.ex with spi := .reading (a + count), spiOut := (List.range count).map fun i => s.readByte (a + i) }

/-- A whole write in a transaction that stands at the word at `a`, with no byte of it written yet: its effect, and
the transaction past its `n` bytes. -/
def State.wholeWrite (s : State) (a n : Nat) (effect : State → State) : State :=
  match s.ex.writable a with
  | some ([], stray) => (effect s).spiAt (a + n) [] stray
  | some (_ :: _, _) => s
  | none => s

/-- A whole write of a port's word: ignored, with STRAY_WRITE once, for a port that is not fitted (R149). -/
def State.portWord (s : State) (p : Port) (a : Nat) (effect : State → State) : State :=
  match s.ex.writable a with
  | some ([], stray) => if s.fitted p then (effect s).spiAt (a + 2) [] stray else s.stray (a + 2) stray
  | some (_ :: _, _) => s
  | none => s

/-- The select line is released: the transaction ends, with STRAY_WRITE for a word left part-written (R148,
log 16). -/
def State.endTransaction (s : State) : State :=
  match s.ex.spi with
  | .writing _ word stray =>
    let t := if word.isEmpty || stray then s else s.raise .strayWrite
    t.setEx { t.ex with spi := .idle }
  | .idle | .blocked | .ignoring | .reading _ => s.setEx { s.ex with spi := .idle }

/-! ### Rewrites (R155, R75) -/

/-- A record written whole at an address. -/
def State.put (s : State) (a : Nat) (bytes : List Byte) : State :=
  s.setEx { s.ex with mem := Memory.write s.ex.mem a bytes }

/-- A port view rewritten under its next revision. -/
def State.rewritePort (s : State) (p : Port) : State :=
  let t := s.onPort p fun r => { r with rep := { r.rep with rev := r.rep.rev + 1 } }
  t.put (portViewBase p) (stamped (t.port p).rep.rev (t.portBytes p))

/-- The part status record rewritten under its next revision. -/
def State.rewritePsr (s : State) : State :=
  let t := s.setEx { s.ex with psrRev := s.ex.psrRev + 1 }
  t.put psrBase (stamped t.ex.psrRev t.psrBytes)

/-- A campaign view rewritten under its next revision; a number with no campaign to show is left. -/
def State.rewriteCampaign (s : State) (v : ViewNo) : State :=
  match s.campBytes v with
  | some fields =>
    let rev := s.ex.campRev[v.val] + 1
    (s.setEx { s.ex with campRev := s.ex.campRev.set v.val rev }).put (campViewBase v) (stamped rev fields)
  | none => s

/-- One rewrite (R155). -/
def State.rewrite (s : State) (v : ViewId) : State :=
  match v with
  | .port p => s.rewritePort p
  | .campaign v => s.rewriteCampaign v
  | .partStatus => s.rewritePsr

/-- The grant revision raised by 1, with the part status record rewritten (R75). -/
def State.stepGrantRev (s : State) : State := (s.setBu { s.bu with grantRev := s.bu.grantRev + 1 }).rewritePsr

/-- The grant view and the queue order list rewritten between an odd and an even grant revision (R75, R76). -/
def State.rewriteGrants (s : State) : State :=
  let t := s.stepGrantRev
  ((t.put grantBase (grantView t.bu)).put queueBase (queueList t.bu)).stepGrantRev

/-! ### The RESET line (R3, R32, R101, R109, R125, R139, R157) -/

/-- A port's part of the RESET line before its target is evaluated (R3, R17, R32). The status word is cleared here,
ahead of a restart that the event may take (DESIGN CHOICE, log 17). -/
def PortRecord.onReset (clock : Time) (r : PortRecord) : PortRecord :=
  { r with
    feed := { r.feed with hold := false }
    sup := { r.sup with pollDue := some (clock + r.setup.pollInterval), waiting := [] }
    line := { item := none, flight := none, charge := none, general := [], window := none,
              halt := if r.term.state == .testing then some [.reset] else none }
    rep := { r.rep with status := 0, enable := 0 }
    box := { r.box with census := false, tasks := [], cancels := [], kept := [], items := [] } }

/-- The CHARGE that the RESET line queues, as the feed state stands after the evaluation (R32, R55). -/
def PortRecord.resetCharge (r : PortRecord) : PortRecord :=
  r.handCharge (if r.feed.state.fed then r.setup.limit else 0)

/-- A port's part of the RESET line (R3, R13). A silence restart that was deferred for the item dropped here is taken
after the status word has been cleared, so the RESTARTED bit it sets survives the RESET line; the spec gives no order
between the clearing and that restart (DESIGN CHOICE, log 17). -/
def State.resetPort (s : State) (p : Port) : State :=
  ((((s.onPort p (PortRecord.onReset s.clock)).evaluate p).settleRestart p).onPort p
    PortRecord.resetCharge).settlePort p

/-- The mode controller's part: the start cause, and a running census CUT (R90, R101). -/
def ModeCtl.onReset (c : ModeCtl) : ModeCtl :=
  { c with
    cause := .pin
    census := if c.census.state == .running then { c.census with state := .cut, unanswered := 0 } else c.census }

/-- The campaign engine's part: every campaign discarded, the counts running on (R109, R125). -/
def Engine.onReset (e : Engine) : Engine :=
  { e with active := none, stack := [], waiting := [], admission := 0, ended := Vector.replicate 12 none,
           claims := [], cancels := [], kept := [] }

/-- The exchange port's part: words cleared, slots FREE, a transaction that has begun at its end (R147, R157). Of the
rewrites that wait those of the campaign views go with their campaigns and the others stay (DESIGN CHOICE, log 17). -/
def Exchange.onReset (e : Exchange) : Exchange :=
  { e with
    slots := Vector.replicate 32 .free
    intake := []
    doneEn := 0
    partEvent := 0
    partEventEn := 0
    wakeCause := 0
    campRev := Vector.replicate 12 0
    spi := if e.spi == .idle then .idle else .blocked
    views := e.views.filter fun v => match v with
      | .campaign _ => false
      | .port _ | .partStatus => true }

/-- Every campaign view written as zero (R125). -/
def State.zeroCampaigns (s : State) : State :=
  allViews.foldl (fun t v => t.put (campViewBase v) (Memory.zeros 128)) s

/-- The RESET line (R157); the fitted ports take it in ascending order (DESIGN CHOICE, log 17). -/
def State.resetLine (s : State) : State :=
  let t : State :=
    { s with mc := s.mc.onReset, ce := s.ce.onReset, gw := s.gw.onReset, ex := s.ex.onReset }
  let u := s.fittedPorts.foldl State.resetPort t
  let v := s.fittedPorts.foldl State.rewritePort u
  v.rewriteGrants.zeroCampaigns.rewritePsr.driveAttn

end Sys2Proof.Machine
end

