-- ==== Sys2Proof/Machine/BudgetUnit.lean ====
section
/-! DEFINITION. The commands of the budget unit (chapter 4). -/

namespace Sys2Proof.Machine

/-- BUDGET_TAKE_MODE (R78). -/
def execBudgetTakeMode (s : State) : Out :=
  match s.bu.modes with
  | m :: rest => s.event true fun s => (s.setBu { s.bu with mode := m, modes := rest }).evalShed
  | [] => .next s

/-- A sample: the figures, the estimate, the shed level and the floor condition, and the cutoff judgement (R56, R58,
R60, R62, R87, R88). -/
def State.sample (s : State) (volts amps : Half) : State :=
  let b := s.bu.integrate amps
  let t := s.setBu { b with volts := volts, amps := amps, lastSample := s.clock }
  (if b.estimate == s.bu.estimate then t else t.evalShed).judgeCutoff volts.toNat

/-- BANK_SAMPLE (R56): once for each second of the part clock. -/
def execBankSample (volts amps : Half) (s : State) : Out :=
  s.event (s.bu.lastSample != s.clock) fun s => s.sample volts amps

/-- The ceiling and the floor of an accepted ENVELOPE: grants are revoked until the sum fits, the shed level and the
floor condition evaluated, and the queue served (R60, R62, R73). -/
def State.takeCeiling (s : State) (ceiling floor : Nat) : State :=
  let t := State.revokeToFit serveSteps
    (s.setBu { s.bu with ceiling := ceiling, ceilings := s.bu.ceilings.tail })
  s.settleChanged (t.setBu { t.bu with floor := floor }).evalShed.serveWhole

/-- BUDGET_TAKE_CEILING (R73). -/
def execBudgetTakeCeiling (s : State) : Out :=
  match s.bu.ceilings with
  | (ceiling, floor) :: _ => s.event true fun s => s.takeCeiling ceiling floor
  | [] => .next s

/-- GRANT_QUEUE_SERVE (R68, R69). -/
def execGrantQueueServe (s : State) : Out := s.event s.bu.due State.serve

end Sys2Proof.Machine
end

