-- ==== Sys2Proof/Machine/CampaignEngine.lean ====
section
/-! DEFINITION. The commands of the campaign engine (chapter 7). -/

namespace Sys2Proof.Machine

/-- CAMPAIGN (R106, R164). -/
def execCampaign (s : State) : Out :=
  match s.ce.claims with
  | .campaign t plan :: rest => s.event true fun s => (s.setCe { s.ce with claims := rest }).takeCampaign t plan
  | _ => .next s

/-- CAMPAIGN_TAKE_MODE (R94, R120, R121). -/
def execCampaignTakeMode (s : State) : Out :=
  match s.ce.modes with
  | m :: rest => s.event true fun s => (s.setCe { s.ce with modes := rest }).engineMode m
  | [] => .next s

/-- The oldest report of port `p` taken from its box. -/
def State.popReport (s : State) (p : Port) : State :=
  s.onPort p fun r => { r with box := { r.box with out := r.box.out.tail } }

/-- A start answer: "started" marks its entry, a skip code removes it and is written; the engine walks again
(R115, R116). -/
def State.takeAnswer (s : State) (num : Word) (skip : Option ResCode) : State :=
  match s.ce.active with
  | some c => match c.entry num with
    | some e =>
      let c' := match skip with
        | none => c.markStarted num
        | some k => (c.dropEntry num).write e.port k
      (s.setCe (s.ce.setActive (some c'))).settleEngine
    | none => s
  | none => s

/-- ENGINE_TAKE_START_ANSWER (R116). -/
def execEngineTakeStartAnswer (p : Port) (s : State) : Out :=
  match (s.port p).box.out with
  | .answer num skip :: _ => s.event true fun s => (s.popReport p).takeAnswer num skip
  | _ => .next s

/-- An item result, for an item in the in-flight set (R117, R118). -/
def State.takeItemResult (s : State) (num : Word) (k : ResCode) : State :=
  match s.ce.active with
  | some c => match c.entry num with
    | some e => s.setCe (s.ce.setActive (some (c.write e.port k)))
    | none => s
  | none => s

/-- ENGINE_TAKE_ITEM_RESULT (R117): a result and its item end are always two commands (DESIGN CHOICE, log 34). -/
def execEngineTakeItemResult (p : Port) (s : State) : Out :=
  match (s.port p).box.out with
  | .result num k :: _ => s.event true fun s => (s.popReport p).takeItemResult num k
  | _ => .next s

/-- An item end, for an item in the in-flight set: its entry goes, and the engine walks or ends a drain (R117). -/
def State.takeItemEnd (s : State) (num : Word) : State :=
  match s.ce.active with
  | some c => match c.entry num with
    | some _ => (s.setCe (s.ce.setActive (some (c.dropEntry num)))).settleEngine
    | none => s
  | none => s

/-- ENGINE_TAKE_ITEM_END (R117), a command of its own (log 34). -/
def execEngineTakeItemEnd (p : Port) (s : State) : Out :=
  match (s.port p).box.out with
  | .ended num :: _ => s.event true fun s => (s.popReport p).takeItemEnd num
  | _ => .next s

/-- A waiting campaign under view `v` whose not-before time has been reached (R108). -/
def Engine.rested (e : Engine) (clock : Time) (v : ViewNo) : Bool :=
  e.waiting.any fun c => c.view == v && reached c.notBefore clock

/-- NOT_BEFORE_REACHED (R108, R110, R112). -/
def execNotBeforeReached (v : ViewNo) (s : State) : Out := s.event (s.ce.rested s.clock v) State.settleEngine

/-- ENGINE_TAKE_CANCEL (R122). -/
def execEngineTakeCancel (s : State) : Out :=
  match s.ce.cancels with
  | t :: rest => s.event true fun s => (s.setCe { s.ce with cancels := rest }).engineCancel t
  | [] => .next s

/-- ENGINE_TAKE_CLEAR (R123). -/
def execEngineTakeClear (s : State) : Out :=
  match s.ce.claims with
  | .clear :: rest => s.event true fun s => (s.setCe { s.ce with claims := rest }).engineClear
  | _ => .next s

end Sys2Proof.Machine
end

