-- ==== Sys2Proof/WellFormed.lean ====
section
/-! DEFINITION. Which commands are well formed: the operands that the types do not already bound. -/

namespace Sys2Proof

/-- The part measures a line current in 10 mA units in a signed 16-bit figure (section 0-6-4); a level
outside that range is no level of a line. -/
def currentInRange (ma : Int) : Bool := -327680 ≤ ma && ma ≤ 327670

/-- The command bytes READ and WRITE are known (R147); every other byte is unknown. -/
def unknownCommand (cmd : Byte) : Bool := cmd != 0x02 && cmd != 0x03

/-- The check of a command's operands. -/
def Instr.wellFormed : Instr → Bool
  | .spiUnknownCommand cmd => unknownCommand cmd
  | .lineCurrentChange _ ma => currentInRange ma
  | .coldStart .. | .resetLine | .partClockTick | .modeDecision | .mainsOkFall | .mainsOkRise
  | .lossQualified | .restoreQualified | .holdAfterLoss | .modeTakeFloorCondition | .budgetTakeMode
  | .portTakeMode _ | .campaignTakeMode | .gatewayTakeMode | .bankSample .. | .portTakeCutoffChange _
  | .portTakeShedLevel _ | .gatewayTakeShedLevel | .envelopeWindowExpiry | .holdAlarmExpiry
  | .portTakeCensusClaim _ | .budgetTakeCeiling | .portTakeLimitMaximum _ | .grantQueueServe
  | .firstEvaluation _ | .terminalAbsent _ | .presenceRegained _ | .shortBegins _ | .shortEnds _
  | .lineCurrentRefresh .. | .trip _ | .tripCoolingEnd _ | .tripHistoryDrop _ | .restartOffTimeEnd _
  | .dutyOnPhaseEnd _ | .dutyFrameEnd _ | .pollDue _ | .awakeUntilReached _ | .testCooldownEnd _
  | .resultWindowExpiry _ | .demandQualified _ | .demandSignalLost _ | .demandResumed _
  | .demandEnded _ | .requestSendEnd _ | .firstWindowClose _ | .repeatWindowClose _
  | .statusArrival .. | .ackArrival .. | .refuseArrival .. | .resultArrival ..
  | .portTakeStartClaim _ | .portTakeAbortClaim _ | .engineTakeStartAnswer _ | .engineTakeItemResult _
  | .engineTakeItemEnd _ | .notBeforeReached _ | .engineTakeCancel | .engineTakeClear
  | .portTakeClear _ | .portTakeCancel _ | .graceEnd | .gatewayTakeWakeCondition _
  | .postWrite _ | .cancelWrite _ | .doneWrite _ | .doneEnWrite _ | .partEventWrite _
  | .partEventEnableWrite _ | .gatewayWakeCauseWrite _ | .portStatusWrite .. | .portEnableWrite ..
  | .intakeTake | .portPoll _ | .portWake _ | .portSleep _ | .portRestart _ | .campaign
  | .viewRewrite _ | .grantViewRewrite | .demandSignalPresent _ | .readOnlyWordWrite ..
  | .spiTransactionEnd | .spiRead .. | .plainWrite .. => true

end Sys2Proof
end

