-- ==== Sys2Proof/Machine/ExchangePort.lean ====
section
/-! DEFINITION. The commands of the exchange port (chapter 10): SPI transactions, whole writes, plain writes, the
intake, and rewrites. -/

namespace Sys2Proof.Machine

/-- SPI_READ (R147). -/
def execSpiRead (addr : Nat) (count : Nat) (s : State) : Out :=
  s.event (s.ex.readable addr) fun s => s.readRun addr count

/-- SPI_UNKNOWN_COMMAND (R147): the rest of the transaction is ignored. -/
def execSpiUnknownCommand (cmd : Byte) (s : State) : Out :=
  s.event (s.ex.spi == .idle && unknownCommand cmd) fun s => s.setEx { s.ex with spi := .ignoring }

/-- SPI_TRANSACTION_END (R147, R148). -/
def execSpiTransactionEnd (s : State) : Out := s.event true State.endTransaction

/-- POST_WRITE (R148, R150). -/
def execPostWrite (v : Word) (s : State) : Out := s.event true fun s => s.wholeWrite 0x10 4 fun s => s.writePost v

/-- CANCEL_WRITE (R148, R153). -/
def execCancelWrite (v : Word) (s : State) : Out := s.event true fun s => s.wholeWrite 0x14 4 fun s => s.writeCancel v

/-- DONE_WRITE (R148, R152). -/
def execDoneWrite (v : Word) (s : State) : Out := s.event true fun s => s.wholeWrite 0x1C 4 fun s => s.writeDone v

/-- DONE_EN_WRITE (R148). -/
def execDoneEnWrite (v : Word) (s : State) : Out :=
  s.event true fun s => s.wholeWrite 0x20 4 fun s => s.writeDoneEn v

/-- PART_EVENT_WRITE (R148, R154). -/
def execPartEventWrite (v : Word) (s : State) : Out :=
  s.event true fun s => s.wholeWrite 0x24 4 fun s => s.writeEvents v

/-- PART_EVENT_ENABLE_WRITE (R148, R154). -/
def execPartEventEnableWrite (v : Word) (s : State) : Out :=
  s.event true fun s => s.wholeWrite 0x28 4 fun s => s.writeEventEn v

/-- GATEWAY_WAKE_CAUSE_WRITE (R145, R148). -/
def execGatewayWakeCauseWrite (v : Word) (s : State) : Out :=
  s.event true fun s => s.wholeWrite 0x2C 4 fun s => s.writeCause v

/-- The address of a read-only active word (section 10-1). -/
def readOnlyBase (w : ReadOnlyWord) : Nat :=
  match w with
  | .identity => 0x00
  | .taken => 0x18
  | .attentionLow => 0x30
  | .attentionHigh => 0x34

/-- READ_ONLY_WORD_WRITE (R148). -/
def execReadOnlyWordWrite (w : ReadOnlyWord) (v : Word) (s : State) : Out :=
  s.event true fun s => s.wholeWrite (readOnlyBase w) 4 fun s => s.writeWord (readOnlyBase w) v

/-- PORT_STATUS_WRITE (R17, R149). -/
def execPortStatusWrite (p : Port) (v : Half) (s : State) : Out :=
  s.event true fun s => s.portWord p (0x100 + 4 * p.val) fun s => s.writeStatus p v

/-- PORT_ENABLE_WRITE (R18, R149). -/
def execPortEnableWrite (p : Port) (v : Half) (s : State) : Out :=
  s.event true fun s => s.portWord p (0x102 + 4 * p.val) fun s => s.writeEnable p v

/-- PLAIN_WRITE (R147 to R149). -/
def execPlainWrite (addr : Nat) (bytes : List Byte) (s : State) : Out := .next (s.writeRun addr bytes)

/-- INTAKE_TAKE (R151, R158). -/
def execIntakeTake (s : State) : Out :=
  match s.ex.intake with
  | slot :: rest => s.event true fun s => s.takeHead slot rest
  | [] => .next s

/-- VIEW_REWRITE (R155): one waiting request for that record is taken. -/
def execViewRewrite (v : ViewId) (s : State) : Out :=
  s.event (s.ex.views.contains v) fun s => (s.setEx { s.ex with views := s.ex.views.erase v }).rewrite v

/-- GRANT_VIEW_REWRITE (R75, R76). -/
def execGrantViewRewrite (s : State) : Out :=
  s.event (s.ex.grantViews != 0) fun s => (s.setEx { s.ex with grantViews := s.ex.grantViews - 1 }).rewriteGrants

end Sys2Proof.Machine
end

