-- ==== Sys2Proof/Machine/GatewayFeed.lean ====
section
/-! DEFINITION. The commands of the gateway feed controller (chapter 9). -/

namespace Sys2Proof.Machine

/-- GATEWAY_TAKE_MODE (R139, R140, R141, R143). -/
def execGatewayTakeMode (s : State) : Out :=
  match s.gw.modes with
  | m :: rest => s.event true fun s => (s.setGw { s.gw with modes := rest }).gatewayMode m
  | [] => .next s

/-- GATEWAY_TAKE_SHED_LEVEL (R140, R141). -/
def execGatewayTakeShedLevel (s : State) : Out :=
  match s.gw.sheds with
  | n :: rest => s.event true fun s => (s.setGw { s.gw with sheds := rest, shed := n }).judgeForcing
  | [] => .next s

/-- GRACE_END (R141, R142). -/
def execGraceEnd (s : State) : Out :=
  s.event (s.gw.state == .grace && reached s.gw.graceEnd s.clock) fun s => s.setGw s.gw.graceOver

/-- GATEWAY_TAKE_WAKE_CONDITION (R143): one waiting condition of that kind is taken. -/
def execGatewayTakeWakeCondition (c : WakeCond) (s : State) : Out :=
  s.event (s.gw.wakes.contains c) fun s => (s.setGw { s.gw with wakes := s.gw.wakes.erase c }).takeWake c

end Sys2Proof.Machine
end

