-- ==== Sys2Proof/Machine/LineFrames.lean ====
section
/-! DEFINITION. The commands of the line engine: the phases of a transaction (R23) and the arrival of the four
answer frames (R21, R22, R24). -/

namespace Sys2Proof.Machine

/-- The request in flight moved to a phase. -/
def PortRecord.setFlight (ph : TxPhase) (r : PortRecord) : PortRecord :=
  { r with line := { r.line with flight := r.line.flight.map fun f => { f with phase := ph } } }

/-- The request in flight is in phase `ph` and `span` milliseconds from its first send have passed. -/
def PortRecord.phaseOver (ph : TxPhase) (span now : Ms) (r : PortRecord) : Bool :=
  match r.line.flight with
  | some f => f.phase == ph && decide (f.start + span ≤ now)
  | none => false

/-- A send has ended: the first at 200 ms, the repeat at 900 ms (R23). -/
def PortRecord.sendOver (now : Ms) (r : PortRecord) : Bool :=
  r.phaseOver .firstSend Config.sendMs now || r.phaseOver .repeatSend Config.repeatOpenMs now

/-- The answer window that follows a send (R23). -/
def PortRecord.openWindow (r : PortRecord) : PortRecord :=
  match r.line.flight with
  | some f => r.setFlight (if f.phase == .repeatSend then .repeatWindow else .firstWindow)
  | none => r

/-- REQUEST_SEND_END (R23). -/
def execRequestSendEnd (p : Port) (s : State) : Out :=
  s.portEvent p (fun r => r.sendOver s.ms) fun s => s.onPort p PortRecord.openWindow

/-- FIRST_WINDOW_CLOSE (R23). -/
def execFirstWindowClose (p : Port) (s : State) : Out :=
  s.portEvent p (fun r => r.phaseOver .firstWindow Config.firstCloseMs s.ms) fun s =>
    s.onPort p (PortRecord.setFlight .repeatSend)

/-- The request in flight ends. -/
def State.endFlight (s : State) (p : Port) (e : Ending) : State :=
  match (s.port p).line.flight with
  | some f => (s.endRequest p f.req e).settlePort p
  | none => s

/-- REPEAT_WINDOW_CLOSE (R12, R23). -/
def execRepeatWindowClose (p : Port) (s : State) : Out :=
  s.portEvent p (fun r => r.phaseOver .repeatWindow Config.repeatCloseMs s.ms) fun s => s.endFlight p .noAnswer

/-- An answer window is open for a request that `ok` says the frame answers; a line without bias hears nothing
(R21, R22). -/
def PortRecord.accepts (now : Ms) (ok : Body → Bool) (r : PortRecord) : Bool :=
  r.lineOpen && match r.line.flight with
    | some f => f.windowOpen now && ok f.req.body
    | none => false

/-- STATUS answers a QUERY (R22). -/
def statusAnswers (b : Body) : Bool := b == .query

/-- An ACK answers the request it echoes, by the table of section 2-2: a QUERY's answer is a STATUS (log 31). -/
def ackAnswers (echo : Option ReqKind) (b : Body) : Bool := echo == some b.kind && b != .query

/-- REFUSE answers a WAKE, a SLEEP or a TEST (R22). -/
def refuseAnswers (b : Body) : Bool := b.kind == .wake || b.kind == .sleep || b.kind == .test

/-- A state of charge in a frame lies in 0 to 100 (R21). -/
def chargeValid (charge : Byte) : Bool := decide (charge.toNat ≤ 100)

/-- STATUS_ARRIVAL (R21, R22, R25). -/
def execStatusArrival (p : Port) (good : Bool) (charge : Byte) (volts : Half) (flags : StatusFlags) (s : State) :
    Out :=
  s.portEvent p (fun r => good && chargeValid charge && r.accepts s.ms statusAnswers) fun s =>
    s.endFlight p (.status charge volts flags)

/-- ACK_ARRIVAL (R21, R22). -/
def execAckArrival (p : Port) (good : Bool) (echo : Option ReqKind) (s : State) : Out :=
  s.portEvent p (fun r => good && r.accepts s.ms (ackAnswers echo)) fun s => s.endFlight p .ack

/-- REFUSE_ARRIVAL (R21, R22); an unknown reason discards the frame. -/
def execRefuseArrival (p : Port) (good : Bool) (reason : Option RefuseReason) (s : State) : Out :=
  match reason with
  | some why =>
    s.portEvent p (fun r => good && r.accepts s.ms refuseAnswers) fun s => s.endFlight p (.refuse why)
  | none => .next s

/-- A result window is open at `now` on a line that hears (R24). -/
def PortRecord.resultOpen (now : Ms) (r : PortRecord) : Bool :=
  r.lineOpen && match r.line.window with
    | some w => decide (now ≤ w.ms)
    | none => false

/-- RESULT_ARRIVAL (R24, R130, R131). -/
def execResultArrival (p : Port) (good : Bool) (start min final : Half) (charge : Byte) (s : State) : Out :=
  s.portEvent p (fun r => good && chargeValid charge && r.resultOpen s.ms) fun s =>
    (s.takeResult p start min final charge).settlePort p

end Sys2Proof.Machine
end

