-- ==== Sys2Proof/Machine/ModeController.lean ====
section
/-! DEFINITION. The commands of power-up, RESET, the clock and the mode controller (chapter 6). -/

namespace Sys2Proof.Machine

/-- COLD_START (R90, R157): the straps are read and every block takes its cold-start state. -/
def execColdStart (fit : FitStrap) (boot : Bootpol) (mainsOk : Bool) (s : State) : Out :=
  .next (State.cold fit boot mainsOk s.pending)

/-- RESET_LINE (R157). -/
def execResetLine (s : State) : Out := .next s.resetLine

/-- The part clock a second on, held in 32 bits (R90, log 4). -/
def ModeCtl.tick (c : ModeCtl) : ModeCtl :=
  { c with clock := (c.clock + 1) % 4294967296, tickMs := c.tickMs + 1000 }

/-- PART_CLOCK_TICK (R90). -/
def execPartClockTick (s : State) : Out :=
  s.event (decide (s.mc.tickMs + 1000 ≤ s.ms)) fun s => s.setMc s.mc.tick

/-- The mode decided from the level of MAINS_OK (R91). -/
def State.decideMode (s : State) : State :=
  let t := s.setMc { s.mc with decided := true }
  if s.mc.mainsOk then t.handMode .mains else t.loseMains

/-- MODE_DECISION (R91). -/
def execModeDecision (s : State) : Out :=
  s.event (!s.mc.decided && decide (Config.decideMs ≤ s.ms)) State.decideMode

/-- A fall of MAINS_OK (R92, R93); before the decision only the level is taken (R91). -/
def ModeCtl.fall (c : ModeCtl) (now : Ms) : ModeCtl :=
  { c with
    mainsOk := false
    lossTimer := if c.decided && c.mode == .mains then some now else c.lossTimer
    restoreTimer := if c.decided && c.mode != .mains then none else c.restoreTimer }

/-- MAINS_OK_FALL (R92, R93). -/
def execMainsOkFall (s : State) : Out := s.event s.mc.mainsOk fun s => s.setMc (s.mc.fall s.ms)

/-- A rise of MAINS_OK (R92, R93). -/
def ModeCtl.rise (c : ModeCtl) (now : Ms) : ModeCtl :=
  { c with
    mainsOk := true
    lossTimer := if c.decided && c.mode == .mains then none else c.lossTimer
    restoreTimer := if c.decided && c.mode != .mains then some { ms := now, sec := c.clock } else c.restoreTimer }

/-- MAINS_OK_RISE (R92, R93). -/
def execMainsOkRise (s : State) : Out := s.event (!s.mc.mainsOk) fun s => s.setMc (s.mc.rise s.ms)

/-- LOSS_QUALIFIED (R92, R95). -/
def execLossQualified (s : State) : Out :=
  s.event (s.mc.mode == .mains && ranFor s.mc.lossTimer s.ms Config.lossMs) State.loseMains

/-- RESTORE_QUALIFIED (R93, R96). -/
def execRestoreQualified (s : State) : Out := s.event (s.mc.restored s.ms) fun s => s.changeMode .mains

/-- HOLD after a loss, while a condition for it stands (R92, R97, log 18). -/
def State.holdAfterLoss (s : State) : State :=
  let t := s.setMc { s.mc with holdNext := false }
  if s.mc.mode == .outage && (s.mc.floorTaken || s.mc.cutoff) then t.changeMode .hold else t

/-- HOLD_AFTER_LOSS (R92). -/
def execHoldAfterLoss (s : State) : Out := s.event s.mc.holdNext State.holdAfterLoss

/-- A change of the floor condition enters or leaves HOLD (R97, R99). -/
def State.takeFloor (s : State) (on : Bool) : State :=
  let t := s.setMc { s.mc with floors := s.mc.floors.tail, floorTaken := on }
  if on && s.mc.mode == .outage then t.changeMode .hold
  else if !on && s.mc.mode == .hold && !s.mc.cutoff then t.changeMode .outage
  else t

/-- MODE_TAKE_FLOOR_CONDITION (R97, R99). -/
def execModeTakeFloorCondition (s : State) : Out :=
  match s.mc.floors with
  | on :: _ => s.event true fun s => s.takeFloor on
  | [] => .next s

/-- The window locks by EXPIRED (R102). -/
def State.expireEnvelope (s : State) : State :=
  (s.setMc { s.mc with lock := some (.expired, s.clock) }).raise .envelopeLocked

/-- ENVELOPE_WINDOW_EXPIRY (R102). -/
def execEnvelopeWindowExpiry (s : State) : Out :=
  s.event (s.mc.lock.isNone && decide (Config.windowEnd ≤ s.clock)) State.expireEnvelope

/-- The alarm set one period later, and a census unless one still runs (R100). -/
def State.expireAlarm (s : State) : State :=
  let t := s.setMc { s.mc with nextAlarm := s.mc.nextAlarm.map fun a => a + 3600 * s.mc.alarmHours }
  if s.mc.census.state == .running then t else t.startCensus

/-- HOLD_ALARM_EXPIRY (R100, R101). -/
def execHoldAlarmExpiry (s : State) : Out :=
  s.event (s.mc.mode == .hold && reached s.mc.nextAlarm s.clock) State.expireAlarm

end Sys2Proof.Machine
end

