-- ==== Sys2Proof/Machine/PortClaims.lean ====
section
/-! DEFINITION. The commands by which a port controller takes the claims of other blocks: modes, cutoff, shed
levels, limits, census and items (R39, R47, R89, R94, R101, R127, R137). -/

namespace Sys2Proof.Machine

/-- A mode in the record; HOLD suspends polling (R10, R94). -/
def PortRecord.takeMode (clock : Time) (m : Mode) (r : PortRecord) : PortRecord :=
  let r' := { r with
    got := { r.got with mode := m }
    box := { r.box with modes := r.box.modes.tail } }
  if m == .hold then r'.suspendPoll clock else r'

/-- PORT_TAKE_MODE (R85, R94). -/
def execPortTakeMode (p : Port) (s : State) : Out :=
  match (s.port p).box.modes with
  | m :: _ => s.portEvent p (fun _ => true) fun s =>
    ((s.onPort p (PortRecord.takeMode s.clock m)).evaluate p).settlePort p
  | [] => .next s

/-- PORT_TAKE_CUTOFF_CHANGE (R89); it sets neither SHED nor UNSHED. -/
def execPortTakeCutoffChange (p : Port) (s : State) : Out :=
  match (s.port p).box.cutoffs with
  | on :: rest => s.portEvent p (fun _ => true) fun s =>
    ((s.onPort p fun r => { r with got := { r.got with cutoff := on }, box := { r.box with cutoffs := rest } }).evaluate
      p).settlePort p
  | [] => .next s

/-- PORT_TAKE_SHED_LEVEL (R39, R61). -/
def execPortTakeShedLevel (p : Port) (s : State) : Out :=
  match (s.port p).box.sheds with
  | n :: rest => s.portEvent p (fun _ => true) fun s =>
    (s.takeInput p fun r => { r with got := { r.got with shed := n }, box := { r.box with sheds := rest } }).settlePort
      p
  | [] => .next s

/-- A limit code above the new maximum becomes the maximum (R47). -/
def PortRecord.cutLimit (most : Nat) (r : PortRecord) : PortRecord :=
  { r with
    setup := { r.setup with limit := min r.setup.limit most }
    box := { r.box with limits := r.box.limits.tail } }

/-- PORT_TAKE_LIMIT_MAXIMUM (R47, R74). -/
def execPortTakeLimitMaximum (p : Port) (s : State) : Out :=
  match (s.port p).box.limits with
  | most :: _ => s.portEvent p (fun _ => true) fun s =>
    (if most < (s.port p).setup.limit then (s.onPort p (PortRecord.cutLimit most)).applyLimit p
      else s.onPort p (PortRecord.cutLimit most)).settlePort p
  | [] => .next s

/-- A port's answer to its census claim: asked, with its query, or not asked (R101). -/
def State.takeCensus (s : State) (p : Port) : State :=
  let t := s.onPort p fun r => { r with box := { r.box with census := false } }
  if (s.port p).canAsk then
    (t.census fun c => { c with asked := c.asked + 1 }).askPort p
      |>.census fun c => { c with unanswered := c.unanswered - 1 }
  else t.census fun c => { c with unanswered := c.unanswered - 1 }

/-- PORT_TAKE_CENSUS_CLAIM (R101). -/
def execPortTakeCensusClaim (p : Port) (s : State) : Out :=
  s.portEvent p (fun r => r.box.census) fun s => (s.takeCensus p).settlePort p

/-- A start claim answered: the item starts, or a skip code goes back and nothing changes (R127, R128). -/
def State.takeStart (s : State) (p : Port) (num : Word) (view : ViewNo) (w : Work) : State :=
  match (s.port p).startCheck s.clock w with
  | some k => s.report p (.answer num (some k))
  | none => (s.startItem p num view w).report p (.answer num none)

/-- The oldest item claim taken from its box. -/
def PortRecord.popItem (r : PortRecord) : PortRecord := { r with box := { r.box with items := r.box.items.tail } }

/-- PORT_TAKE_START_CLAIM (R127, R128). -/
def execPortTakeStartClaim (p : Port) (s : State) : Out :=
  match (s.port p).box.items with
  | .start num view w :: _ => s.portEvent p (fun _ => true) fun s =>
    ((s.onPort p PortRecord.popItem).takeStart p num view w).settlePort p
  | _ => .next s

/-- An abort claim: taken for the current item of that number, and dropped otherwise (R137). -/
def State.takeAbort (s : State) (p : Port) (num : Word) (code : ResCode) : State :=
  match (s.port p).line.item with
  | some i =>
    if i.num == num then
      (match i.work with
        | .test .. => s.abortTest p i code
        | .wake _ => s.abortWake p i code).settleRestart p
    else s
  | none => s

/-- PORT_TAKE_ABORT_CLAIM (R137). -/
def execPortTakeAbortClaim (p : Port) (s : State) : Out :=
  match (s.port p).box.items with
  | .abort num code :: _ => s.portEvent p (fun _ => true) fun s =>
    ((s.onPort p PortRecord.popItem).takeAbort p num code).settlePort p
  | _ => .next s

end Sys2Proof.Machine
end

