-- ==== Sys2Proof/Machine/PortTasks.lean ====
section
/-! DEFINITION. The commands by which a port controller takes the intake's claims and forwarded cancels (R159,
R162, R165, R166). -/

namespace Sys2Proof.Machine

/-- The oldest claim of the intake taken from its box. -/
def PortRecord.popTask (r : PortRecord) : PortRecord := { r with box := { r.box with tasks := r.box.tasks.tail } }

/-- A claim taken: if its cancel came first it completes CANCELLED and does nothing else (R166, log 8). -/
def State.takeClaim (s : State) (p : Port) (t : TaskRef) (f : State → State) : State :=
  let u := s.onPort p PortRecord.popTask
  if (s.port p).box.kept.contains t then
    (u.onPort p fun r => { r with box := { r.box with kept := r.box.kept.filter fun k => k != t } }).complete t
      .cancelled []
  else f u

/-- The task's request joins the general places, or the task completes BUSY (R159, check 5). -/
def State.queueTask (s : State) (p : Port) (t : TaskRef) (b : Body) : State :=
  match s.join p { body := b, owners := [.task t] } with
  | some u => u
  | none => s.complete t .busy []

/-- PORT POLL (R159). -/
def State.takePoll (s : State) (p : Port) (t : TaskRef) : State :=
  let r := s.port p
  if r.got.mode == .hold then s.complete t .hold []
  else if r.line.item.isSome then s.complete t .busy []
  else if !r.lineOpen then s.complete t .wrongState []
  else s.queueTask p t .query

/-- PORT WAKE (R82, R159). -/
def State.takeWakeTask (s : State) (p : Port) (t : TaskRef) (minutes : Nat) : State :=
  let r := s.port p
  if r.demandStands then s.complete t .lifeline []
  else if r.line.item.isSome then s.complete t .busy []
  else if !r.lineOpen then s.complete t .wrongState []
  else s.queueTask p t (.wake minutes)

/-- PORT SLEEP (R16, R82, R159): the awake-until time goes as the SLEEP is handed over. -/
def State.takeSleep (s : State) (p : Port) (t : TaskRef) : State :=
  let r := s.port p
  if r.demandStands then s.complete t .lifeline []
  else if r.line.item.isSome then s.complete t .busy []
  else if !r.lineOpen then s.complete t .wrongState []
  else match s.join p { body := .sleep, owners := [.task t] } with
    | some u => u.onPort p fun r => { r with term := { r.term with awakeUntil := none, awakeDue := false } }
    | none => s.complete t .busy []

/-- PORT RESTART (R82, R162). -/
def State.takeRestart (s : State) (p : Port) (t : TaskRef) : State :=
  let r := s.port p
  if r.demandStands then s.complete t .lifeline []
  else if r.feed.latch || r.feed.state == .off then s.complete t .wrongState []
  else (s.beginRestart p .host).onPort p fun r => { r with sup := { r.sup with waiting := r.sup.waiting ++ [t] } }

/-- PORT_POLL (R159). -/
def execPortPoll (p : Port) (s : State) : Out :=
  match (s.port p).box.tasks with
  | .poll t :: _ => s.portEvent p (fun _ => true) fun s =>
    (s.takeClaim p t fun u => u.takePoll p t).settlePort p
  | _ => .next s

/-- PORT_WAKE (R159). -/
def execPortWake (p : Port) (s : State) : Out :=
  match (s.port p).box.tasks with
  | .wake t m :: _ => s.portEvent p (fun _ => true) fun s =>
    (s.takeClaim p t fun u => u.takeWakeTask p t m).settlePort p
  | _ => .next s

/-- PORT_SLEEP (R159). -/
def execPortSleep (p : Port) (s : State) : Out :=
  match (s.port p).box.tasks with
  | .sleep t :: _ => s.portEvent p (fun _ => true) fun s =>
    (s.takeClaim p t fun u => u.takeSleep p t).settlePort p
  | _ => .next s

/-- PORT_RESTART (R162). -/
def execPortRestart (p : Port) (s : State) : Out :=
  match (s.port p).box.tasks with
  | .restart t :: _ => s.portEvent p (fun _ => true) fun s =>
    (s.takeClaim p t fun u => u.takeRestart p t).settlePort p
  | _ => .next s

/-- The tasks of the port's line requests let go of them (R27). -/
def State.tasksLetGo (s : State) (p : Port) (gone : Owner → Bool) : State :=
  s.onPort p fun r => { r with line := r.line.letGo gone }

/-- A CLEAR claim: every PORT POLL, PORT WAKE and PORT SLEEP taken and not completed is CLEARED (R165). -/
def State.takeClear (s : State) (p : Port) : State :=
  let ts := tasksOf (s.port p).line.owners
  ((s.onPort p PortRecord.popTask).tasksLetGo p Owner.isTask).completeAll ts .cleared []

/-- PORT_TAKE_CLEAR (R165). -/
def execPortTakeClear (p : Port) (s : State) : Out :=
  match (s.port p).box.tasks with
  | .clear :: _ => s.portEvent p (fun _ => true) fun s => (s.takeClear p).settlePort p
  | _ => .next s

/-- The task a claim carries. -/
def PortClaim.ref (c : PortClaim) : Option TaskRef :=
  match c with
  | .poll t | .wake t _ | .sleep t | .restart t => some t
  | .clear => none

/-- A forwarded cancel: a task on the line lets go and completes CANCELLED; one whose claim is not yet taken is
kept; any other (a PORT RESTART that waits, or a task already completed) is left (R166, log 8). -/
def State.takeCancel (s : State) (p : Port) (t : TaskRef) : State :=
  let u := s.onPort p fun r => { r with box := { r.box with cancels := r.box.cancels.tail } }
  if (s.port p).line.owners.contains (.task t) then
    (u.tasksLetGo p (· == .task t)).complete t .cancelled []
  else if (s.port p).box.tasks.any (fun c => c.ref == some t) then
    u.onPort p fun r => { r with box := { r.box with kept := r.box.kept ++ [t] } }
  else u

/-- PORT_TAKE_CANCEL (R166). -/
def execPortTakeCancel (p : Port) (s : State) : Out :=
  match (s.port p).box.cancels with
  | t :: _ => s.portEvent p (fun _ => true) fun s => (s.takeCancel p t).settlePort p
  | [] => .next s

end Sys2Proof.Machine
end

