-- ==== Sys2Proof/Machine/PortTimers.lean ====
section
/-! DEFINITION. The commands of a port's timers and of what its line senses (chapters 1, 2, 3 and 8). -/

namespace Sys2Proof.Machine

/-- The timers of port `p` as its conditions stand. -/
def State.settleTimers (s : State) (p : Port) : State := s.onPort p (PortRecord.settleTimers s.ms)

/-! ### First evaluation, presence and shorts -/

/-- FIRST_EVALUATION (R2, R55). -/
def execFirstEvaluation (p : Port) (s : State) : Out :=
  s.portEvent p (fun r => !r.feed.started && decide (Config.firstEvalMs ≤ s.ms)) fun s =>
    ((s.onPort p fun r => { r with feed := { r.feed with started := true } }).evaluate p).settlePort p

/-- TERMINAL_ABSENT (R6). -/
def execTerminalAbsent (p : Port) (s : State) : Out :=
  s.portEvent p (fun r => ranFor r.tim.absence s.ms Config.absenceMs) fun s =>
    ((((s.loseLine p .absent).onPort p (PortRecord.mark .absent)).evaluate p).settlePort p)

/-- Presence regained in the record (R7). -/
def PortRecord.regain (clock : Time) (r : PortRecord) : PortRecord :=
  PortRecord.mark .present { r with
    term := { r.term with state := .unknown }
    sup := { r.sup with pollDue := some (clock + Config.firstPoll) } }

/-- PRESENCE_REGAINED (R7). -/
def execPresenceRegained (p : Port) (s : State) : Out :=
  s.portEvent p (fun r => ranFor r.tim.presence s.ms Config.presenceMs) fun s =>
    ((s.onPort p (PortRecord.regain s.clock)).evaluate p).settlePort p

/-- SHORT_BEGINS (R8). -/
def execShortBegins (p : Port) (s : State) : Out :=
  s.portEvent p (fun r => ranFor r.tim.short s.ms Config.shortMs) fun s =>
    (s.onPort p fun r => PortRecord.mark .short { r with feed := { r.feed with short := true } }).settleTimers p

/-- SHORT_ENDS (R8). -/
def execShortEnds (p : Port) (s : State) : Out :=
  s.portEvent p (fun r => ranFor r.tim.shortEnd s.ms Config.shortMs) fun s =>
    (s.onPort p fun r => { r with feed := { r.feed with short := false } }).settleTimers p

/-- The line current in the record's unit of 10 mA, signed in 16 bits (section 0-6-4); `up` takes a part of a unit for a
whole one, which the spec leaves open (log 21). -/
def measure (ma : Int) (up : Bool) : Half := BitVec.ofInt 16 (ma / 10 + if up && ma % 10 != 0 then 1 else 0)

/-- The measured current as the line stands (R19). -/
def PortRecord.refresh (clock : Time) (up : Bool) (r : PortRecord) : PortRecord :=
  { r with feed := { r.feed with measured := measure r.pin.current up, refreshed := clock } }

/-- LINE_CURRENT_REFRESH (R19): once for each second of the part clock. -/
def execLineCurrentRefresh (p : Port) (up : Bool) (s : State) : Out :=
  s.portEvent p (fun r => r.feed.refreshed != s.clock) fun s => s.onPort p (PortRecord.refresh s.clock up)

/-- LINE_CURRENT_CHANGE (R6, R7, R8, R49). -/
def execLineCurrentChange (p : Port) (ma : Int) (s : State) : Out :=
  s.portEvent p (fun _ => true) fun s =>
    (s.onPort p fun r => { r with pin := { r.pin with current := ma } }).settleTimers p

/-! ### Trips, cooling, restarts and duty frames -/

/-- What is left of the history as a trip comes: no entry of 600 s or more (R50), and none of the trip's own second,
since the history holds no entry twice (R51; DESIGN CHOICE, log 32). -/
def PortRecord.tripsLeft (clock : Time) (r : PortRecord) : List Time :=
  r.feed.trips.filter fun t => decide (clock < t + Config.tripSpan) && t != clock

/-- The trip time appended to what is left of the history (R50). -/
def PortRecord.addTrip (clock : Time) (r : PortRecord) : PortRecord :=
  { r with feed := { r.feed with trips := r.tripsLeft clock ++ [clock] } }

/-- The outcome by the length of the history: cooling with TRIPPED, or the latch with FAULT (R50). -/
def PortRecord.tripOutcome (now : Ms) (r : PortRecord) : PortRecord :=
  if r.feed.trips.length < 3 then PortRecord.mark .tripped { r with feed := { r.feed with cooling := some now } }
  else PortRecord.mark .fault { r with feed := { r.feed with latch := true } }

/-- TRIP (R49, R50): the evaluation that follows releases the grant, ends the frame and hands over CHARGE 0. -/
def execTrip (p : Port) (s : State) : Out :=
  s.portEvent p (fun r => r.fullClosed && ranFor r.tim.overcur s.ms Config.tripMs) fun s =>
    ((s.onPort p fun r => (r.addTrip s.clock).tripOutcome s.ms).evaluate p).settlePort p

/-- TRIP_COOLING_END (R52). -/
def execTripCoolingEnd (p : Port) (s : State) : Out :=
  s.portEvent p (fun r => ranFor r.feed.cooling s.ms Config.coolingMs) fun s =>
    ((s.onPort p fun r => { r with feed := { r.feed with cooling := none } }).evaluate p).settlePort p

/-- An entry of the trip history has reached 600 s (R51). -/
def PortRecord.oldTrip (clock : Time) (r : PortRecord) : Bool :=
  !r.feed.latch && r.feed.trips.any fun t => decide (t + Config.tripSpan ≤ clock)

/-- TRIP_HISTORY_DROP (R51). -/
def execTripHistoryDrop (p : Port) (s : State) : Out :=
  s.portEvent p (fun r => r.oldTrip s.clock) fun s =>
    s.onPort p fun r => { r with
      feed := { r.feed with trips := r.feed.trips.filter fun t => decide (s.clock < t + Config.tripSpan) } }

/-- The kind fields of a PORT RESTART's result (R162). -/
def PortRecord.restartFields (r : PortRecord) : List Byte := Memory.le16 r.sup.restarts ++ optTime r.sup.lastRestart

/-- The off-time runs out: each waiting PORT RESTART completes OK and the target is evaluated (R15). -/
def State.endOffTime (s : State) (p : Port) : State :=
  let r := s.port p
  ((s.completeAll r.sup.waiting .ok r.restartFields).onPort p fun r =>
    { r with
      feed := { r.feed with offTime := none }
      sup := { r.sup with waiting := [] } }).evaluate p

/-- RESTART_OFF_TIME_END (R15). -/
def execRestartOffTimeEnd (p : Port) (s : State) : Out :=
  s.portEvent p (fun r => ranFor r.feed.offTime s.ms Config.offTimeMs) fun s => (s.endOffTime p).settlePort p

/-- The ON phase of the duty frame has lasted its eighths (R45). -/
def PortRecord.onPhaseOver (clock : Time) (r : PortRecord) : Bool :=
  r.feed.state == .duty && match r.feed.duty with
    | some d => d.on && decide (d.start + Config.dutyEighth * d.eighths ≤ clock)
    | none => false

/-- DUTY_ON_PHASE_END (R45). -/
def execDutyOnPhaseEnd (p : Port) (s : State) : Out :=
  s.portEvent p (fun r => r.onPhaseOver s.clock) fun s =>
    (s.onPort p fun r => { r with
      feed := { r.feed with duty := r.feed.duty.map fun d => { d with on := false } } }).settleTimers p

/-- The duty frame has lasted 120 s (R45). -/
def PortRecord.frameOver (clock : Time) (r : PortRecord) : Bool :=
  r.feed.state == .duty && match r.feed.duty with
    | some d => decide (d.start + Config.dutyFrame ≤ clock)
    | none => false

/-- The eighths that the next frame is begun with: the target's (R46). -/
def Target.eighths (t : Target) (old : Nat) : Nat :=
  match t with
  | .duty e _ => e
  | .off | .fault | .cycling | .tripped | .bias | .full _ => old

/-- DUTY_FRAME_END (R45, R46). -/
def execDutyFrameEnd (p : Port) (s : State) : Out :=
  s.portEvent p (fun r => r.frameOver s.clock) fun s =>
    (s.onPort p fun r => { r with
      feed := { r.feed with duty := r.feed.duty.map fun d =>
        { on := true, start := d.start + Config.dutyFrame, eighths := r.feed.target.eighths d.eighths } } }).settleTimers p

/-! ### Polls, the awake-until time, the test cooldown and the result window -/

/-- A poll falls due: merged with a QUERY on the line, queued in a free place, or skipped (R9, R30). -/
def PortRecord.poll (clock : Time) (r : PortRecord) : PortRecord :=
  if r.line.hasQuery then
    { r with sup := { r.sup with pollDue := none }, line := r.line.mergeQuery .poll }
  else if r.line.general.length < 4 then
    { r with
      sup := { r.sup with pollDue := none }
      line := { r.line with general := r.line.general ++ [{ body := .query, owners := [.poll] }] } }
  else { r with sup := { r.sup with pollDue := some (clock + r.setup.pollInterval) } }

/-- POLL_DUE (R9): held over while polling is suspended (R10). -/
def execPollDue (p : Port) (s : State) : Out :=
  s.portEvent p (fun r => reached r.sup.pollDue s.clock && !r.pollSuspended) fun s =>
    (s.onPort p (PortRecord.poll s.clock)).settlePort p

/-- AWAKE_UNTIL_REACHED (R16). -/
def execAwakeUntilReached (p : Port) (s : State) : Out :=
  s.portEvent p (fun r => reached r.term.awakeUntil s.clock && !r.term.awakeDue) fun s =>
    (s.onPort p fun r => { r with term := { r.term with awakeDue := true } }).settlePort p

/-- TEST_COOLDOWN_END (R131). -/
def execTestCooldownEnd (p : Port) (s : State) : Out :=
  s.portEvent p (fun r => reached r.bat.cooldown s.clock) fun s =>
    s.onPort p fun r => { r with bat := { r.bat with cooldown := none } }

/-- The result window is open and its closing moment has come (R129). -/
def PortRecord.windowOver (now : Ms) (r : PortRecord) : Bool :=
  match r.line.window with
  | some w => decide (w.ms ≤ now)
  | none => false

/-- RESULT_WINDOW_EXPIRY (R129). -/
def execResultWindowExpiry (p : Port) (s : State) : Out :=
  s.portEvent p (fun r => r.windowOver s.ms) fun s => (s.expireWindow p).settlePort p

/-! ### The demand signal (section 2-7) -/

/-- A demand qualified in the record (R34). -/
def PortRecord.qualify (clock : Time) (r : PortRecord) : PortRecord :=
  PortRecord.mark .demand { r with
    dem := { state := .active, start := some clock, count := countUp r.dem.count 255 } }

/-- DEMAND_QUALIFIED (R34, R80, R81). -/
def execDemandQualified (p : Port) (s : State) : Out :=
  s.portEvent p (fun r => ranFor r.tim.qual s.ms Config.demandMs) fun s =>
    (((s.onPort p (PortRecord.qualify s.clock)).abortByDemand p).evaluate p).settlePort p

/-- The signal gone: an ACTIVE demand is ENDING (R35). -/
def PortRecord.signalLost (r : PortRecord) : PortRecord :=
  { r with
    pin := { r.pin with signal := false }
    dem := if r.dem.state == .active then { r.dem with state := .ending } else r.dem }

/-- DEMAND_SIGNAL_LOST (R34, R35). -/
def execDemandSignalLost (p : Port) (s : State) : Out :=
  s.portEvent p (fun _ => true) fun s => (s.onPort p PortRecord.signalLost).settleTimers p

/-- DEMAND_SIGNAL_PRESENT (R34, R35). -/
def execDemandSignalPresent (p : Port) (s : State) : Out :=
  s.portEvent p (fun _ => true) fun s =>
    (s.onPort p fun r => { r with pin := { r.pin with signal := true } }).settleTimers p

/-- DEMAND_RESUMED (R35). -/
def execDemandResumed (p : Port) (s : State) : Out :=
  s.portEvent p (fun r => ranFor r.tim.resume s.ms Config.demandMs) fun s =>
    (s.onPort p fun r => { r with dem := { r.dem with state := .active } }).settleTimers p

/-- DEMAND_ENDED (R35, R84). -/
def execDemandEnded (p : Port) (s : State) : Out :=
  s.portEvent p (fun r => ranFor r.tim.onHook s.ms Config.onHookMs) fun s =>
    (((s.onPort p fun r => PortRecord.mark .demandEnded { r with
      dem := { r.dem with state := .idle } }).evaluate p).settleRestart p).settlePort p

end Sys2Proof.Machine
end

