-- ==== Sys2Proof/Machine/Dispatch.lean ====
section
/-! DEFINITION. One arm for each command, each a direct call of its meaning. -/

namespace Sys2Proof.Machine

def exec (i : Instr) (s : State) : Host.Outcome State Fault Refusal :=
  match i with
  | .coldStart fit boot mainsOk => Sys2Proof.Machine.execColdStart fit boot mainsOk s
  | .resetLine => Sys2Proof.Machine.execResetLine s
  | .partClockTick => Sys2Proof.Machine.execPartClockTick s
  | .modeDecision => Sys2Proof.Machine.execModeDecision s
  | .mainsOkFall => Sys2Proof.Machine.execMainsOkFall s
  | .mainsOkRise => Sys2Proof.Machine.execMainsOkRise s
  | .lossQualified => Sys2Proof.Machine.execLossQualified s
  | .restoreQualified => Sys2Proof.Machine.execRestoreQualified s
  | .holdAfterLoss => Sys2Proof.Machine.execHoldAfterLoss s
  | .modeTakeFloorCondition => Sys2Proof.Machine.execModeTakeFloorCondition s
  | .budgetTakeMode => Sys2Proof.Machine.execBudgetTakeMode s
  | .portTakeMode p => Sys2Proof.Machine.execPortTakeMode p s
  | .campaignTakeMode => Sys2Proof.Machine.execCampaignTakeMode s
  | .gatewayTakeMode => Sys2Proof.Machine.execGatewayTakeMode s
  | .bankSample volts amps => Sys2Proof.Machine.execBankSample volts amps s
  | .portTakeCutoffChange p => Sys2Proof.Machine.execPortTakeCutoffChange p s
  | .portTakeShedLevel p => Sys2Proof.Machine.execPortTakeShedLevel p s
  | .gatewayTakeShedLevel => Sys2Proof.Machine.execGatewayTakeShedLevel s
  | .envelopeWindowExpiry => Sys2Proof.Machine.execEnvelopeWindowExpiry s
  | .holdAlarmExpiry => Sys2Proof.Machine.execHoldAlarmExpiry s
  | .portTakeCensusClaim p => Sys2Proof.Machine.execPortTakeCensusClaim p s
  | .budgetTakeCeiling => Sys2Proof.Machine.execBudgetTakeCeiling s
  | .portTakeLimitMaximum p => Sys2Proof.Machine.execPortTakeLimitMaximum p s
  | .grantQueueServe => Sys2Proof.Machine.execGrantQueueServe s
  | .firstEvaluation p => Sys2Proof.Machine.execFirstEvaluation p s
  | .terminalAbsent p => Sys2Proof.Machine.execTerminalAbsent p s
  | .presenceRegained p => Sys2Proof.Machine.execPresenceRegained p s
  | .shortBegins p => Sys2Proof.Machine.execShortBegins p s
  | .shortEnds p => Sys2Proof.Machine.execShortEnds p s
  | .lineCurrentRefresh p up => Sys2Proof.Machine.execLineCurrentRefresh p up s
  | .trip p => Sys2Proof.Machine.execTrip p s
  | .tripCoolingEnd p => Sys2Proof.Machine.execTripCoolingEnd p s
  | .tripHistoryDrop p => Sys2Proof.Machine.execTripHistoryDrop p s
  | .restartOffTimeEnd p => Sys2Proof.Machine.execRestartOffTimeEnd p s
  | .dutyOnPhaseEnd p => Sys2Proof.Machine.execDutyOnPhaseEnd p s
  | .dutyFrameEnd p => Sys2Proof.Machine.execDutyFrameEnd p s
  | .pollDue p => Sys2Proof.Machine.execPollDue p s
  | .awakeUntilReached p => Sys2Proof.Machine.execAwakeUntilReached p s
  | .testCooldownEnd p => Sys2Proof.Machine.execTestCooldownEnd p s
  | .resultWindowExpiry p => Sys2Proof.Machine.execResultWindowExpiry p s
  | .demandQualified p => Sys2Proof.Machine.execDemandQualified p s
  | .demandSignalLost p => Sys2Proof.Machine.execDemandSignalLost p s
  | .demandResumed p => Sys2Proof.Machine.execDemandResumed p s
  | .demandEnded p => Sys2Proof.Machine.execDemandEnded p s
  | .requestSendEnd p => Sys2Proof.Machine.execRequestSendEnd p s
  | .firstWindowClose p => Sys2Proof.Machine.execFirstWindowClose p s
  | .repeatWindowClose p => Sys2Proof.Machine.execRepeatWindowClose p s
  | .statusArrival p good charge volts flags => Sys2Proof.Machine.execStatusArrival p good charge volts flags s
  | .ackArrival p good echo => Sys2Proof.Machine.execAckArrival p good echo s
  | .refuseArrival p good reason => Sys2Proof.Machine.execRefuseArrival p good reason s
  | .resultArrival p good start min final charge => Sys2Proof.Machine.execResultArrival p good start min final charge s
  | .portTakeStartClaim p => Sys2Proof.Machine.execPortTakeStartClaim p s
  | .portTakeAbortClaim p => Sys2Proof.Machine.execPortTakeAbortClaim p s
  | .engineTakeStartAnswer p => Sys2Proof.Machine.execEngineTakeStartAnswer p s
  | .engineTakeItemResult p => Sys2Proof.Machine.execEngineTakeItemResult p s
  | .engineTakeItemEnd p => Sys2Proof.Machine.execEngineTakeItemEnd p s
  | .notBeforeReached v => Sys2Proof.Machine.execNotBeforeReached v s
  | .engineTakeCancel => Sys2Proof.Machine.execEngineTakeCancel s
  | .engineTakeClear => Sys2Proof.Machine.execEngineTakeClear s
  | .portTakeClear p => Sys2Proof.Machine.execPortTakeClear p s
  | .portTakeCancel p => Sys2Proof.Machine.execPortTakeCancel p s
  | .graceEnd => Sys2Proof.Machine.execGraceEnd s
  | .gatewayTakeWakeCondition c => Sys2Proof.Machine.execGatewayTakeWakeCondition c s
  | .spiRead addr count => Sys2Proof.Machine.execSpiRead addr count s
  | .spiUnknownCommand cmd => Sys2Proof.Machine.execSpiUnknownCommand cmd s
  | .postWrite v => Sys2Proof.Machine.execPostWrite v s
  | .cancelWrite v => Sys2Proof.Machine.execCancelWrite v s
  | .doneWrite v => Sys2Proof.Machine.execDoneWrite v s
  | .doneEnWrite v => Sys2Proof.Machine.execDoneEnWrite v s
  | .partEventWrite v => Sys2Proof.Machine.execPartEventWrite v s
  | .partEventEnableWrite v => Sys2Proof.Machine.execPartEventEnableWrite v s
  | .gatewayWakeCauseWrite v => Sys2Proof.Machine.execGatewayWakeCauseWrite v s
  | .portStatusWrite p v => Sys2Proof.Machine.execPortStatusWrite p v s
  | .portEnableWrite p v => Sys2Proof.Machine.execPortEnableWrite p v s
  | .plainWrite addr bytes => Sys2Proof.Machine.execPlainWrite addr bytes s
  | .intakeTake => Sys2Proof.Machine.execIntakeTake s
  | .portPoll p => Sys2Proof.Machine.execPortPoll p s
  | .portWake p => Sys2Proof.Machine.execPortWake p s
  | .portSleep p => Sys2Proof.Machine.execPortSleep p s
  | .portRestart p => Sys2Proof.Machine.execPortRestart p s
  | .campaign => Sys2Proof.Machine.execCampaign s
  | .viewRewrite v => Sys2Proof.Machine.execViewRewrite v s
  | .grantViewRewrite => Sys2Proof.Machine.execGrantViewRewrite s
  | .lineCurrentChange p ma => Sys2Proof.Machine.execLineCurrentChange p ma s
  | .demandSignalPresent p => Sys2Proof.Machine.execDemandSignalPresent p s
  | .readOnlyWordWrite w v => Sys2Proof.Machine.execReadOnlyWordWrite w v s
  | .spiTransactionEnd => Sys2Proof.Machine.execSpiTransactionEnd s

end Sys2Proof.Machine
end

