-- ==== Sys2Proof/Safety.lean ====
section
/-! DEFINITION. The safety properties of the part that every step keeps, each with the rule of the spec it says, and
the words the statements use: a command completes, and what it leaves unchanged. -/

namespace Sys2Proof.Machine

/-! ### Invariants -/

/-- The plain memory is in its canonical form. -/
abbrev State.memoryCanonical (s : State) : Prop := Memory.wf s.ex.mem = true

/-- ATTN stands as its sources give it (R156, R144). -/
abbrev State.attnDriven (s : State) : Prop := s.ex.attn = s.attnLevel

/-- The sum of the grants never exceeds the ceiling in force (R63). -/
abbrev State.grantsFit (s : State) : Prop := s.bu.granted ≤ s.bu.ceiling

/-- A slot is in the intake queue exactly when it is POSTED, and once (section 10-3). -/
def State.intakePosted (s : State) : Prop :=
  s.ex.intake.Nodup ∧ ∀ i : Slot, i ∈ s.ex.intake ↔ s.ex.slots[i.val] = .posted

/-- No FEED request stands ahead of a LIFELINE request (R66). -/
def lifelineFirst (q : List GrantReq) : Prop :=
  q.Pairwise fun a b => b.kind = .lifeline → a.kind = .lifeline

/-- The grant queue keeps that order (R66). -/
def State.queueOrdered (s : State) : Prop := lifelineFirst s.bu.queue

/-- The three places hold no more than R105 allows; a campaign draining for preemption finds room on the stack
(R112). -/
def State.placesHold (s : State) : Prop :=
  s.ce.waiting.length + (if s.ce.active.isSome then 1 else 0) ≤ Config.waitingRoom
    ∧ s.ce.stack.length ≤ Config.stackRoom
    ∧ ∀ c, s.ce.active = some c → c.drain = some .suspend → s.ce.stack.length < Config.stackRoom

/-- No grant's order is above the count of grants made (R68). -/
def State.ordersHeld (s : State) : Prop := ∀ p g, s.bu.grantOf p = some g → g.order ≤ s.bu.orders

/-! ### Words of the statements -/

/-- Command `c` completes at `s`: exec answers a next state, of which `P` holds. -/
def Completes (c : Instr) (s : State) (P : State → Prop) : Prop := ∃ t, exec c s = .next t ∧ P t

/-- Every port but `p` is unchanged. -/
def OtherPorts (p : Port) (s t : State) : Prop := ∀ q, q ≠ p → t.port q = s.port q

/-- Every byte of plain memory is unchanged. -/
def SameMemory (s t : State) : Prop := ∀ a, Memory.read t.ex.mem a = Memory.read s.ex.mem a

/-- Every byte of plain memory outside `n` bytes from `base` is unchanged. -/
def SameMemoryOutside (base n : Nat) (s t : State) : Prop :=
  ∀ a, (a < base ∨ base + n ≤ a) → Memory.read t.ex.mem a = Memory.read s.ex.mem a

/-- A status bit is set on port `p`. -/
def Marked (t : State) (p : Port) (b : StatusBit) : Prop := (t.port p).rep.status &&& b.mask = b.mask

/-- A part event bit is set. -/
def Raised (t : State) (e : PartEvent) : Prop := t.ex.partEvent &&& e.mask = e.mask

/-- The feed target of port `p` is what the decision table gives now (R37). -/
abbrev TargetCurrent (t : State) (p : Port) : Prop := (t.port p).feed.target = (t.port p).decision

/-! ### Words of the exchange memory -/

/-- The four bytes from `a` upward read as the word `w`, its lowest byte first (section 0-6-2). -/
def ReadsWord (s : State) (a : Nat) (w : Word) : Prop := ∀ k, k < 4 → s.readByte (a + k) = w.extractLsb' (8 * k) 8

/-- The two bytes from `a` upward read as the word `h`, its lowest byte first. -/
def ReadsHalf (s : State) (a : Nat) (h : Half) : Prop := ∀ k, k < 2 → s.readByte (a + k) = h.extractLsb' (8 * k) 8

/-- The active words by address, each with the command of a whole write of it (section 10-1). -/
def activeWords : List (Nat × (Word → Instr)) :=
  [(0x00, .readOnlyWordWrite .identity), (0x10, .postWrite), (0x14, .cancelWrite), (0x18, .readOnlyWordWrite .taken),
   (0x1C, .doneWrite), (0x20, .doneEnWrite), (0x24, .partEventWrite), (0x28, .partEventEnableWrite),
   (0x2C, .gatewayWakeCauseWrite), (0x30, .readOnlyWordWrite .attentionLow),
   (0x34, .readOnlyWordWrite .attentionHigh)]

/-- The two words of port `p` in the port status page, each with the command of a whole write of it (section 12-2). -/
def pageWords (p : Port) : List (Nat × (Half → Instr)) :=
  [(0x100 + 4 * p.val, .portStatusWrite p), (0x102 + 4 * p.val, .portEnableWrite p)]

/-- A field of the card `c` lies outside its range (section 11-3, at the places of section 12-3; R158, R167). -/
def CardOutOfRange (s : State) (c : List Byte) : Prop :=
  (cardByte c 0 = 1 ∧ (3 < cardByte c 5 ∨ cardByte c 6 < 1 ∨ 63 < cardByte c 6 ∨ s.mc.env.limitMax < cardByte c 6
      ∨ 2 < cardByte c 7 ∨ cardByte c 7 = 1 ∧ (cardByte c 8 < 1 ∨ 7 < cardByte c 8) ∨ 2 < cardByte c 9
      ∨ cardHalf c 10 < 30 ∨ 3600 < cardHalf c 10 ∨ 7 < cardByte c 12))
    ∨ (cardByte c 0 = 3 ∧ cardByte c 5 < 1)
    ∨ (cardByte c 0 = 7 ∧ (cardHalf c 4 < 1 ∨ 1 < cardByte c 8 ∨ cardByte c 16 < 1 ∨ 4 < cardByte c 16
      ∨ cardByte c 17 < 5 ∨ 120 < cardByte c 17 ∨ cardHalf c 18 < 10 ∨ 600 < cardHalf c 18 ∨ 24 < cardByte c 20))
    ∨ (cardByte c 0 = 9 ∧ (1 < cardByte c 4 ∨ 3 < cardByte c 5 ∨ cardByte c 6 < 1 ∨ cardByte c 7 < 1
      ∨ 8 < cardByte c 7 ∨ 1440 < cardHalf c 8 ∨ 1 < cardByte c 10
      ∨ (∀ p : Port, s.fitted p = true → (cardSet c 12).getLsbD p.val = false)
      ∨ cardByte c 4 = 0 ∧ (cardByte c 20 < 1 ∨ 15 < cardByte c 20 ∨ s.mc.env.loadMax < cardByte c 20
        ∨ cardHalf c 22 < 10 ∨ 600 < cardHalf c 22 ∨ cardHalf c 24 < 1 ∨ 1000 < cardHalf c 24)
      ∨ cardByte c 4 = 1 ∧ cardByte c 28 < 1))
    ∨ (cardByte c 0 = 10 ∧ 3 < cardByte c 4)
    ∨ (cardByte c 0 = 11 ∧ (1 < cardByte c 4 ∨ 15 < cardByte c 5 ∨ cardByte c 4 = 1 ∧ cardByte c 5 = 0))

/-! ### Frames -/

/-- Of the gateway feed controller only the waiting wake conditions may have changed. -/
def GatewayKept (s t : State) : Prop := ∃ w, t.gw = { s.gw with wakes := w }

/-- Of the exchange port only the ATTN line and the waiting rewrites may have changed. -/
def ExchangeKept (s t : State) : Prop := ∃ a v g, t.ex = { s.ex with attn := a, views := v, grantViews := g }

/-- Time, the queue, the mode controller, the budget unit and the engine stand. -/
def BlocksStand (s t : State) : Prop :=
  t.ms = s.ms ∧ t.pending = s.pending ∧ t.mc = s.mc ∧ t.bu = s.bu ∧ t.ce = s.ce

/-- Only port `p`'s record has changed, with what an event's end may ask for. -/
def OnlyPort (p : Port) (s t : State) : Prop :=
  BlocksStand s t ∧ OtherPorts p s t ∧ GatewayKept s t ∧ ExchangeKept s t

/-- Nothing outside the exchange port has changed but the waiting wake conditions. -/
def OnlyExchange (s t : State) : Prop := BlocksStand s t ∧ t.ports = s.ports ∧ GatewayKept s t

/-- A byte of the result half of a slot that was TAKEN in `s` and is DONE in `t`. -/
def InResult (s t : State) (a : Nat) : Prop :=
  ∃ i : Slot, s.ex.slots[i.val].isTaken = true ∧ t.ex.slots[i.val] = .done
    ∧ resultBase i ≤ a ∧ a < resultBase i + 64

/-- Slots and plain memory have changed by completions only: a slot that differs was TAKEN and is DONE, and a byte
that differs lies in the result half of such a slot (R152). -/
def ResultsOnly (s t : State) : Prop :=
  (∀ i : Slot, t.ex.slots[i.val] = s.ex.slots[i.val]
      ∨ s.ex.slots[i.val].isTaken = true ∧ t.ex.slots[i.val] = .done)
    ∧ ∀ a, Memory.read t.ex.mem a = Memory.read s.ex.mem a ∨ InResult s t a

/-- Of the budget unit only port `p`'s grant and request, the arrival count and the call for a serving may have changed:
the other ports keep their grants, and their requests with their order (R42, R66). -/
def BudgetFrame (p : Port) (b b' : Budget) : Prop :=
  (∃ tab q n d, b' = { b with table := tab, queue := q, arrivals := n, due := d })
    ∧ (∀ q, q ≠ p → b'.grantOf q = b.grantOf q) ∧ b'.without p = b.without p

/-- What a port's own command leaves: the other ports, the engine, the budget unit but for the port's own places, the
mode controller but for the census, the gateway feed controller but for its waiting conditions, and the exchange port
but for completions, part events, ATTN and the waiting rewrites. -/
def PortFrame (p : Port) (s t : State) : Prop :=
  t.ms = s.ms ∧ t.pending = s.pending ∧ t.ce = s.ce ∧ OtherPorts p s t ∧ BudgetFrame p s.bu t.bu
    ∧ (∃ c, t.mc = { s.mc with census := c }) ∧ GatewayKept s t
    ∧ (∃ m sl pe a v g, t.ex = { s.ex with
        mem := m, slots := sl, partEvent := pe, attn := a, views := v, grantViews := g })
    ∧ ResultsOnly s t

/-- The port whose controller takes a command: the commands of chapters 1, 2, 3, 5 and 8 and the claims. -/
def portOf : Instr → Option Port
  | .portTakeMode p | .portTakeCutoffChange p | .portTakeShedLevel p | .portTakeCensusClaim p
  | .portTakeLimitMaximum p | .firstEvaluation p | .terminalAbsent p | .presenceRegained p
  | .shortBegins p | .shortEnds p | .lineCurrentRefresh p _ | .trip p | .tripCoolingEnd p
  | .tripHistoryDrop p | .restartOffTimeEnd p | .dutyOnPhaseEnd p | .dutyFrameEnd p | .pollDue p
  | .awakeUntilReached p | .testCooldownEnd p | .resultWindowExpiry p | .demandQualified p
  | .demandSignalLost p | .demandResumed p | .demandEnded p | .requestSendEnd p | .firstWindowClose p
  | .repeatWindowClose p | .statusArrival p _ _ _ _ | .ackArrival p _ _ | .refuseArrival p _ _
  | .resultArrival p _ _ _ _ _ | .portTakeStartClaim p | .portTakeAbortClaim p | .portTakeClear p
  | .portTakeCancel p | .portPoll p | .portWake p | .portSleep p | .portRestart p
  | .lineCurrentChange p _ | .demandSignalPresent p => some p
  | _ => none

/-! ### The fields of a port record, by the commands that may change them -/

/-- The port's setup changes by a limit maximum alone (PORT SETUP is the intake's). -/
def movesSetup : Instr → Bool
  | .portTakeLimitMaximum _ => true
  | _ => false

/-- The figures of other blocks. -/
def movesFigures : Instr → Bool
  | .portTakeMode _ | .portTakeCutoffChange _ | .portTakeShedLevel _ => true
  | _ => false

/-- The inputs of the line. -/
def movesPins : Instr → Bool
  | .lineCurrentChange .. | .demandSignalPresent _ | .demandSignalLost _ => true
  | _ => false

/-- The battery health record. -/
def movesBattery : Instr → Bool
  | .resultArrival .. | .testCooldownEnd _ => true
  | _ => false

/-- The latch. -/
def movesLatch : Instr → Bool
  | .trip _ => true
  | _ => false

/-- The trip history. -/
def movesTrips : Instr → Bool
  | .trip _ | .tripHistoryDrop _ => true
  | _ => false

/-- The measured line current and the second of its refresh. -/
def movesMeasured : Instr → Bool
  | .lineCurrentRefresh .. => true
  | _ => false

/-- The demand start and the demand count. -/
def movesDemandCount : Instr → Bool
  | .demandQualified _ => true
  | _ => false

/-- The figures a STATUS reports. -/
def movesReport : Instr → Bool
  | .statusArrival .. => true
  | _ => false

/-- The last answer time. -/
def movesLastAnswer : Instr → Bool
  | .statusArrival .. | .ackArrival .. | .refuseArrival .. | .resultArrival .. => true
  | _ => false

/-- The part of a port record that command `c` leaves: every field but those it may change, and every status bit that
was set. The line, the feed state, the terminal state, the demand state, supervision and timers may change. -/
def RecordKept (c : Instr) (r r' : PortRecord) : Prop :=
  (movesSetup c = false → r'.setup = r.setup)
    ∧ (movesFigures c = false → r'.got = r.got)
    ∧ (movesPins c = false → r'.pin = r.pin)
    ∧ (movesBattery c = false → r'.bat = r.bat)
    ∧ (movesLatch c = false → r'.feed.latch = r.feed.latch)
    ∧ (movesTrips c = false → r'.feed.trips = r.feed.trips)
    ∧ (movesMeasured c = false →
        r'.feed.measured = r.feed.measured ∧ r'.feed.refreshed = r.feed.refreshed)
    ∧ (movesDemandCount c = false → r'.dem.start = r.dem.start ∧ r'.dem.count = r.dem.count)
    ∧ (movesReport c = false →
        r'.term.flags = r.term.flags ∧ r'.term.charge = r.term.charge ∧ r'.term.volts = r.term.volts)
    ∧ (movesLastAnswer c = false → r'.term.lastAnswer = r.term.lastAnswer)
    ∧ r'.rep.enable = r.rep.enable ∧ r'.rep.rev = r.rep.rev
    ∧ r'.rep.status &&& r.rep.status = r.rep.status

/-! ### Words of the results -/

/-- Part events now read `pe`, and nothing else of the exchange port has changed but ATTN and the waiting rewrites. -/
def EventsNow (s t : State) (pe : Word) : Prop :=
  ∃ a v g, t.ex = { s.ex with partEvent := pe, attn := a, views := v, grantViews := g }

/-- Task `u` is no task of the port's: it owns no request on the line and is no PORT RESTART that waits. -/
abbrev PortRecord.Unheld (r : PortRecord) (u : TaskRef) : Prop := Owner.task u ∉ r.line.owners ∧ u ∉ r.sup.waiting

/-- Task `u` holds its slot: the slot is TAKEN under the task's take number (R152). -/
def HoldsSlot (s : State) (u : TaskRef) : Prop := ∃ tag o c, s.ex.slots[u.slot.val] = .taken u.take tag o c

/-- Slot `i` is DONE, and its result half reads whole: the status, 0, the card's tag, the completion time and the kind
fields, each at its place of section 12-4, and 0 in every byte after them (R152). -/
def ResultStands (t : State) (i : Slot) (tag : Half) (time : Time) (st : Status) (fields : List Byte) : Prop :=
  t.ex.slots[i.val] = .done
    ∧ ∀ k < 64, Memory.read t.ex.mem (resultBase i + k) =
        ([Memory.byte st.code, 0] ++ Memory.le16 tag.toNat ++ Memory.le32 time ++ fields).getD k 0

/-- A task that held its slot in `s` is complete in `t`: the slot is DONE, with the tag the slot was taken with and the
second of the event (R152). -/
def Answered (s t : State) (u : TaskRef) (st : Status) (fields : List Byte) : Prop :=
  t.ex.slots[u.slot.val] = .done
    ∧ ∀ tag o c, s.ex.slots[u.slot.val] = .taken u.take tag o c →
      ResultStands t u.slot tag s.mc.clock st fields

/-- The task whose card stood posted in slot `i` of `s` is complete in `t`, with the card's tag and the second of the
event (R152, R153). -/
def Settled (s t : State) (i : Slot) (st : Status) (fields : List Byte) : Prop :=
  ResultStands t i (cardTag (Memory.run s.ex.mem (slotBase i) 64)) s.mc.clock st fields

/-- The kind fields of a campaign's result, each total in two bytes (section 12-4). -/
def campaignFields (rounds : Nat) (n : Totals) : List Byte :=
  [Memory.byte rounds, 0] ++ Memory.le16 n.passed ++ Memory.le16 n.failed ++ Memory.le16 n.woke
    ++ Memory.le16 n.skipped ++ Memory.le16 n.aborted ++ Memory.le16 n.noResult ++ Memory.le16 n.refused

/-- A CHARGE of `code` is handed to the line of port `p` (R28, R33): beside a request in flight it waits in the CHARGE
place, an idle line begins it at once (R31), and a line with no bias or an ABSENT terminal drops it. -/
def ChargeHanded (s t : State) (p : Port) (code : Nat) : Prop :=
  ((s.port p).lineOpen = true →
      (∀ f, (s.port p).line.flight = some f →
        (t.port p).line.flight = some f ∧ (t.port p).line.charge = some code)
      ∧ ((s.port p).line.flight = none → (s.port p).line.halt = none → (s.port p).term.state ≠ .testing →
        (t.port p).line.flight =
            some { req := { body := .charge code, owners := [.feed] }, phase := .firstSend, start := s.ms }
          ∧ (t.port p).line.charge = none))
    ∧ ((s.port p).lineOpen = false → (t.port p).line.charge = (s.port p).line.charge)

/-- A request without one of its owners (R27). -/
def Request.without (q : Request) (o : Owner) : Request := { q with owners := q.owners.filter fun x => decide (x ≠ o) }

/-- Request `a` goes ahead of request `b` (R66): LIFELINE before FEED, a LIFELINE request by its arrival, a FEED request
by its tier and then its arrival. -/
def GoesAhead (a b : GrantReq) : Prop :=
  (a.kind = .lifeline ∧ (b.kind = .feed ∨ b.kind = .lifeline ∧ a.arrival < b.arrival))
    ∨ (a.kind = .feed ∧ b.kind = .feed ∧ (a.tier < b.tier ∨ a.tier = b.tier ∧ a.arrival < b.arrival))

/-- Request `q` has been put into the queue `old` at its place: before the first request it goes ahead of (R66, R67). -/
def Placed (q : GrantReq) (old new : List GrantReq) : Prop :=
  ∃ pre post, old = pre ++ post ∧ new = pre ++ q :: post ∧ (∀ a ∈ pre, ¬ GoesAhead q a)
    ∧ ∀ a, post.head? = some a → GoesAhead q a

/-- Port `p` is fitted, has made its first evaluation, is not DISABLED and has no restart off-time running. -/
abbrev Steered (s : State) (p : Port) : Prop :=
  s.fitted p = true ∧ (s.port p).feed.started = true ∧ (s.port p).setup.wish ≠ .disabled
    ∧ (s.port p).feed.offTime = none

/-- A mode has been handed to every receiver, and nothing else of them has changed (R94). -/
def ModeHandedOnly (s t : State) (m : Mode) : Prop :=
  t.ms = s.ms ∧ t.pending = s.pending
    ∧ t.bu = { s.bu with modes := s.bu.modes ++ [m] }
    ∧ t.ce = { s.ce with modes := s.ce.modes ++ [m] }
    ∧ (∃ w, t.gw = { s.gw with modes := s.gw.modes ++ [m], wakes := w })
    ∧ ∀ p, t.port p = if s.fitted p then
        { s.port p with box := { (s.port p).box with modes := (s.port p).box.modes ++ [m] } }
      else s.port p

/-- The shed level and the floor condition evaluated over the budget `b`, which stood before the evaluation: each that
moves is in force and handed to its receivers (R60 to R62). -/
def ShedEvaluated (b : Budget) (s t : State) : Prop :=
  t.bu = { b with shed := b.level, floorCond := b.belowFloor }
    ∧ (b.level = b.shed →
        t.ports = s.ports ∧ t.ce = s.ce ∧ t.gw.sheds = s.gw.sheds ∧ t.ex.partEvent = s.ex.partEvent)
    ∧ (b.level ≠ b.shed → Raised t .shedChanged ∧ t.gw.sheds = s.gw.sheds ++ [b.level]
        ∧ t.ce = { s.ce with shed := b.level }
        ∧ ∀ p, t.port p = if s.fitted p then
            { s.port p with box := { (s.port p).box with sheds := (s.port p).box.sheds ++ [b.level] } }
          else s.port p)
    ∧ (b.belowFloor = b.floorCond → t.mc = s.mc)
    ∧ (b.belowFloor ≠ b.floorCond → t.mc = { s.mc with floors := s.mc.floors ++ [b.belowFloor] })

/-- A port holds a grant exactly in FULL and DUTY, stands in the grant queue exactly in WAITING, and in these three has
made its first evaluation, has a FULL or DUTY target and no latch; an off-time runs only in CYCLING (R42, R53, R14). -/
def PortRecord.feedSound (r : PortRecord) (grant : Option Grant) (req : Option GrantReq) : Prop :=
  (grant.isSome = true ↔ r.feed.state.fed = true)
    ∧ (req.isSome = true ↔ r.feed.state = .waiting)
    ∧ (r.feed.state.fed = true ∨ r.feed.state = .waiting →
        r.feed.started = true ∧ r.feed.latch = false
          ∧ ((∃ k, r.feed.target = .full k) ∨ ∃ e k, r.feed.target = .duty e k))
    ∧ (r.feed.offTime.isSome = true →
        r.feed.state = .cycling ∧ r.feed.target = .cycling ∧ r.feed.latch = false)

/-- A campaign of the waiting list is eligible now, the mode being `m` (R108). -/
def EligibleIn (m : Mode) (s : State) (c : Campaign) : Prop :=
  (∀ n, c.notBefore = some n → n ≤ s.mc.clock) ∧ (c.plan.outageOnly = true → m = .outage) ∧ m ≠ .hold
    ∧ (c.admitted = true ∨ s.ce.admission ≤ c.plan.priority)

/-- The walk of a campaign cannot step: an entry waits for its answer, or the set is at its concurrency (R115). -/
def Campaign.Waits (c : Campaign) : Prop :=
  (∃ e, e ∈ c.flying ∧ e.started = false) ∨ c.plan.concurrency ≤ c.flying.length

/-- Port `p` is the lowest of a campaign's set from `cursor` up, and not the last port (R115). -/
def Campaign.NextIs (c : Campaign) (cursor : Nat) (p : Port) : Prop :=
  cursor ≤ p.val ∧ p.val < 63 ∧ c.plan.ports.getLsbD p.val = true
    ∧ ∀ q : Port, cursor ≤ q.val → q.val < p.val → c.plan.ports.getLsbD q.val = false

/-- The campaign with the walk's next claim, to port `p`, in flight (R115). -/
def Campaign.claims (c : Campaign) (p : Port) (num : Word) : Campaign :=
  { c with
    flying := c.flying ++ [{ port := p, num := num, started := false }]
    map := c.map.set p.val .inFlight
    cursor := p.val + 1 }

/-- The port records and the budget unit agree, and no port stands twice in the grant queue (R42, R66). -/
def State.grantsMatchFeed (s : State) : Prop :=
  (s.bu.queue.map (·.port)).Nodup
    ∧ ∀ p, (s.port p).feedSound (s.bu.grantOf p) (s.bu.requestOf p)

/-- No trip history holds more than three entries or an entry twice, and one that holds three has its FAULT latch set
(R51). -/
def State.tripsBounded (s : State) : Prop :=
  ∀ p, (s.port p).feed.trips.length ≤ 3 ∧ (s.port p).feed.trips.Nodup
    ∧ ((s.port p).feed.trips.length = 3 → (s.port p).feed.latch = true)

/-- A set charge estimate lies between 0 and the capacity, and the residue below one unit either way (R58). -/
def State.estimateHeld (s : State) : Prop :=
  (∀ e, s.bu.estimate = some e → ∃ c, s.bu.capacity = some c ∧ e ≤ c)
    ∧ -Config.unitResidue < s.bu.residue ∧ s.bu.residue < Config.unitResidue

/-! ### The records of chapter 12, field by field -/

/-- The memory from `base` upward holds each field of a table at its offset. -/
def HoldsFields (t : State) (base : Nat) (fields : List (Nat × List Byte)) : Prop :=
  ∀ f ∈ fields, ∀ k < f.2.length, Memory.read t.ex.mem (base + f.1 + k) = f.2.getD k 0

/-- A flags byte: bit `n` is the `n`th flag. -/
def bits : List Bool → Nat
  | [] => 0
  | b :: rest => (if b then 1 else 0) + 2 * bits rest

/-- Kind, amount and queue position of a port's place at the budget unit (R75): the grant's, else the request's, else
none. -/
def placeFields (b : Budget) (p : Port) : List Byte :=
  match b.grantOf p, b.requestOf p with
  | some g, _ => [Memory.byte g.kind.code, Memory.byte g.amount, 0xFF]
  | none, some q =>
    [Memory.byte q.kind.code, Memory.byte q.amount, Memory.byte (b.queue.findIdx fun r => r.port == p)]
  | none, none => [0, 0, 0xFF]

/-- Section 12-5 with its two revision copies. (Trip times beyond the count, and the figures of a last test that is
absent, read 0: the model's reading, log 20.) -/
def portTable (s : State) (p : Port) : List (Nat × List Byte) :=
  let r := s.port p
  let rev := Memory.le16 (r.rep.rev + 1).toNat
  [ (0, rev), (2, [Memory.byte r.setup.tier]), (3, [Memory.byte r.setup.limit]), (4, [Memory.byte r.setup.policy.code]),
    (5, [Memory.byte r.setup.policy.eighths]), (6, [Memory.byte r.setup.wish.code]),
    (7, [Memory.byte r.setup.threshold]), (8, Memory.le16 r.setup.pollInterval),
    (10, [Memory.byte r.feed.state.code]), (11, [Memory.byte r.term.state.code]),
    (12, [Memory.byte r.dem.state.code]), (13, [Memory.byte (s.standing p).code]), (14, placeFields s.bu p),
    (17, [match r.feed.duty with
      | some d => if d.on then 1 else 2
      | none => 0]),
    (18, optTime (r.feed.duty.map (·.start))), (22, [Memory.byte r.feed.trips.length]),
    (23, [Memory.byte (bits [r.feed.short, r.feed.latch])]) ]
  ++ [ (24, Memory.le32 (r.feed.trips[0]?.getD 0)), (28, Memory.le32 (r.feed.trips[1]?.getD 0)),
    (32, Memory.le32 (r.feed.trips[2]?.getD 0)), (36, Memory.le16 r.feed.measured.toNat),
    (38, [Memory.byte r.term.charge]), (39, [Memory.byte ((r.term.flags.map flagsByte).getD 0)]),
    (40, [if r.term.flags.isSome then 0x1F else 0]), (41, [Memory.byte r.sup.silence]),
    (42, Memory.le16 r.term.volts.toNat), (44, optTime r.term.lastAnswer), (48, optTime r.term.awakeUntil),
    (52, optTime r.dem.start), (56, [Memory.byte r.dem.count]), (57, [Memory.byte r.sup.cause.code]),
    (58, Memory.le16 r.sup.restarts), (60, optTime r.sup.lastRestart), (64, optTime r.sup.pollDue) ]
  ++ [ (68, [match r.bat.last with
      | some x => if x.pass then 1 else 2
      | none => 0]),
    (69, [Memory.byte ((r.bat.last.map (·.charge)).getD 0)]), (70, optTime (r.bat.last.map (·.time))),
    (74, Memory.le16 ((r.bat.last.map (·.start.toNat)).getD 0)),
    (76, Memory.le16 ((r.bat.last.map (·.min.toNat)).getD 0)),
    (78, Memory.le16 ((r.bat.last.map (·.final.toNat)).getD 0)), (80, optTime r.bat.cooldown),
    (84, [Memory.byte ((r.line.item.map (·.view.val)).getD 0xFF)]),
    (85, [Memory.byte ((r.line.item.map (·.work.code)).getD 0)]),
    (86, [Memory.byte ((r.line.item.map (·.phase.code)).getD 0)]), (87, [Memory.byte r.line.general.length]),
    (88, optTime (r.line.window.map (·.sec))),
    (92, [Memory.byte ((r.line.flight.map fun f => reqCode f.req.body.kind).getD 0)]), (93, Memory.zeros 33),
    (126, rev) ]

/-- The view number of the campaign at place `k` of a list, 0xFF beyond its end. -/
def viewAt (l : List Campaign) (k : Nat) : Byte := Memory.byte ((l[k]?.map (·.view.val)).getD 0xFF)

/-- The part status record of section 12-1 by address, with its two revision copies. (The floor and the ceiling are
those the budget unit has taken: the model's choice, log 33. A grace end that is absent reads as every absent time:
log 23.) -/
def partTable (s : State) : List (Nat × List Byte) :=
  let rev := Memory.le16 (s.ex.psrRev + 1).toNat
  [ (0x40, rev), (0x42, Memory.le32 s.mc.clock), (0x46, [Memory.byte s.mc.mode.code]),
    (0x47, [Memory.byte s.mc.cause.code]), (0x48, [Memory.byte (bootCode s.mc.boot)]),
    (0x49, [Memory.byte (bits [s.bu.estimate.isSome, s.bu.thresholds.isSome, s.bu.floorCond, s.mc.mainsOk, s.mc.resumed,
      s.mc.cutoff, s.gw.forcing])]),
    (0x4A, Memory.le32 s.mc.modeTime), (0x4E, Memory.le16 s.bu.volts.toNat), (0x50, Memory.le16 s.bu.amps.toNat),
    (0x52, Memory.le16 (s.bu.estimate.getD 0)), (0x54, Memory.le16 (s.bu.capacity.getD 0)),
    (0x56, Memory.le16 ((s.bu.thresholds.map (·.t3)).getD 0)),
    (0x58, Memory.le16 ((s.bu.thresholds.map (·.t2)).getD 0)),
    (0x5A, Memory.le16 ((s.bu.thresholds.map (·.t1)).getD 0)), (0x5C, Memory.le16 s.bu.floor),
    (0x5E, Memory.le16 s.bu.ceiling), (0x60, Memory.le16 s.bu.granted), (0x62, Memory.le16 s.bu.pool),
    (0x64, [Memory.byte s.bu.queue.length]), (0x65, [Memory.byte s.bu.shed]),
    (0x66, Memory.le16 s.bu.grantRev.toNat) ]
  ++ [ (0x68, Memory.le16 s.mc.env.cutoff), (0x6A, [Memory.byte s.mc.env.limitMax]),
    (0x6B, [Memory.byte s.mc.env.loadMax]), (0x6C, [if s.mc.lock.isSome then 2 else 1]),
    (0x6D, [Memory.byte ((s.mc.lock.map (·.1.code)).getD 0)]), (0x6E, optTime (s.mc.lock.map (·.2))),
    (0x72, optTime (s.mc.restoreTimer.map (·.sec))), (0x76, Memory.le16 s.mc.restoreQual),
    (0x78, Memory.le16 s.mc.holdExits), (0x7A, optTime s.mc.cutTime), (0x7E, [Memory.byte s.mc.alarmHours]),
    (0x7F, [Memory.byte s.mc.census.state.code]), (0x80, optTime s.mc.nextAlarm), (0x84, optTime s.mc.census.start),
    (0x88, [Memory.byte s.mc.census.asked]), (0x89, [Memory.byte s.mc.census.answered]),
    (0x8A, [Memory.byte s.mc.census.silent]), (0x8B, [Memory.byte s.mc.census.lost]) ]
  ++ [ (0x8C, [Memory.byte s.ce.admission]), (0x8D, [viewAt s.ce.active.toList 0]),
    (0x8E, [Memory.byte s.ce.stack.length]), (0x8F, (List.range 3).map (viewAt s.ce.stack)),
    (0x92, [Memory.byte s.ce.waiting.length]), (0x93, (List.range 8).map (viewAt s.ce.waiting)),
    (0x9B, [Memory.byte s.gw.state.code]), (0x9C, [Memory.byte ((s.gw.grace.map GraceKind.code).getD 0)]),
    (0x9D, [Memory.byte s.gw.rest.code]), (0x9E, [Memory.byte s.gw.mask.toNat]), (0x9F, [Memory.byte s.gw.shedLimit]),
    (0xA0, [Memory.byte s.gw.graceTime]), (0xA1, [Memory.byte s.standingDemands]),
    (0xA2, [Memory.byte s.unservedDemands]), (0xA3, [0]), (0xA4, optTime s.gw.graceEnd), (0xA8, Memory.zeros 86),
    (0xFE, rev) ]

/-- Section 12-6 with its two revision copies, without the result map. -/
def campaignTable (c : Campaign) (rev : Half) : List (Nat × List Byte) :=
  [ (0, Memory.le16 rev.toNat), (2, [Memory.byte c.task.slot.val]), (3, [Memory.byte c.plan.work.code]),
    (4, [Memory.byte c.plan.priority]), (5, [Memory.byte (c.state.code + 16 * (c.drain.map DrainReason.code).getD 0)]),
    (6, [Memory.byte (bits [c.admitted, c.plan.outageOnly])]), (7, [Memory.byte c.plan.rounds]),
    (8, [Memory.byte c.roundsDone]), (9, [Memory.byte c.plan.concurrency]), (10, [Memory.byte c.cursor]),
    (11, [Memory.byte c.plan.work.load]), (12, [Memory.byte c.plan.work.minutes]),
    (13, [Memory.byte ((c.endStatus.map Status.code).getD 0)]) ]
  ++ [ (14, Memory.le16 c.plan.interval), (16, Memory.le16 c.plan.work.duration), (18, Memory.le16 c.plan.work.sag),
    (20, Memory.le16 c.plan.work.endMin), (22, Memory.le16 c.arrival), (24, optTime c.roundStart),
    (28, optTime c.notBefore), (32, Memory.le64 c.plan.ports.toNat), (40, Memory.le64 (flyingSet c.flying).toNat),
    (48, Memory.le16 c.totals.passed), (50, Memory.le16 c.totals.failed), (52, Memory.le16 c.totals.woke),
    (54, Memory.le16 c.totals.skipped), (56, Memory.le16 c.totals.aborted), (58, Memory.le16 c.totals.noResult),
    (60, Memory.le16 c.totals.refused), (126, Memory.le16 rev.toNat) ]

/-- The codes of chapter 12, by literal number, of every type that a record shows. -/
def CodesOfChapter12 : Prop :=
  [Mode.mains, .outage, .hold].map Mode.code = [1, 2, 3]
    ∧ [StartCause.cold, .pin].map StartCause.code = [1, 2] ∧ [Bootpol.on, .waitMains].map bootCode = [1, 2]
    ∧ [LockCause.accepted, .expired].map LockCause.code = [1, 2]
    ∧ [CensusState.none, .running, .done, .cut].map CensusState.code = [0, 1, 2, 3]
    ∧ [GwState.on, .grace, .restOff, .forcedOff, .bootWait].map GwState.code = [1, 2, 3, 4, 5]
    ∧ [GraceKind.voluntary, .forced].map GraceKind.code = [1, 2]
    ∧ [RestType.none, .idle, .off].map RestType.code = [0, 1, 2]
    ∧ [WakeCond.done, .port, .partEvent, .mains].map condMask = [1, 2, 4, 8]
    ∧ [GrantKind.feed, .lifeline].map GrantKind.code = [1, 2]
    ∧ [Policy.full, .duty 5, .bias].map (fun c => (c.code, c.eighths)) = [(0, 0), (1, 5), (2, 0)]
    ∧ [FeedWish.auto, .forceBias, .disabled].map FeedWish.code = [0, 1, 2]
    ∧ [FeedState.off, .cycling, .bias, .waiting, .full, .duty, .tripped, .fault].map FeedState.code
      = [0, 1, 2, 3, 4, 5, 6, 7]
    ∧ [TermState.unknown, .absent, .asleep, .awake, .silent, .testing].map TermState.code = [0, 1, 2, 3, 4, 5]
    ∧ [DemandState.idle, .active, .ending].map DemandState.code = [0, 1, 2]
    ∧ [Standing.none, .fault, .cooling, .cutoff, .onMains, .fed, .waiting].map Standing.code = [0, 1, 2, 3, 4, 5, 6]
    ∧ [RestartCause.none, .cold, .silence, .host].map RestartCause.code = [0, 1, 2, 3]
    ∧ [ItemPhase.holding, .requested, .running, .ending, .window, .closing].map ItemPhase.code = [1, 2, 3, 4, 5, 6]
    ∧ [ReqKind.query, .wake, .sleep, .test, .halt, .charge].map reqCode = [1, 2, 3, 4, 5, 6]
    ∧ [Work.test 1 2 3 4, .wake 5].map (fun w => [w.code, w.load, w.duration, w.sag, w.endMin, w.minutes])
      = [[1, 1, 2, 3, 4, 0], [2, 0, 0, 0, 0, 5]]
    ∧ [CampState.waiting, .running, .draining, .suspended, .resting, .ended].map CampState.code = [1, 2, 3, 4, 5, 6]
    ∧ [DrainReason.suspend, .rest, .mode, .cancel].map DrainReason.code = [1, 2, 3, 4]
    ∧ [ResCode.pending, .notInSet, .inFlight, .passed, .failed, .woke, .refused, .noAnswer, .noResult, .abortedDemand,
        .abortedRestart, .abortedHold, .abortedHost, .skippedAbsent, .skippedSilent, .skippedFault, .skippedShed,
        .skippedRecent, .skippedBusy, .skippedDemand].map ResCode.code
      = [0, 1, 2, 3, 4, 5, 6, 7, 8, 9, 10, 11, 12, 13, 14, 15, 16, 17, 18, 19]
    ∧ [Status.ok, .cancelled, .cleared, .badKind, .badField, .noPort, .busy, .noRoom, .locked, .badOrder, .stillActive,
        .wrongState, .noAnswer, .refused, .lifeline, .hold].map Status.code
      = [1, 2, 3, 4, 5, 6, 7, 8, 9, 10, 11, 12, 13, 14, 15, 16]
    ∧ [RefuseReason.busy, .unsupported, .batteryLow].map refuseCode = [1, 2, 3]
    ∧ (∀ f : StatusFlags, flagsByte f = bits [f.onBattery, f.awake, f.charging, f.batteryFault, f.offHook])
    ∧ [PartEvent.modeChanged, .shedChanged, .envelopeLocked, .postClash, .strayWrite, .cutoff, .budgetUnset,
        .gatewayForced, .holdCensus].map PartEvent.mask = [1, 2, 4, 8, 16, 32, 64, 128, 256]
    ∧ [Cause.done, .port, .partEvent, .mains, .forcedEnd, .boot].map Cause.mask = [1, 2, 4, 8, 16, 32]
    ∧ [StatusBit.demand, .demandEnded, .silent, .answering, .restarted, .tripped, .fault, .absent, .present, .onBattery,
        .offBattery, .shed, .unshed, .preempted, .testDone, .short].map StatusBit.mask
      = (List.range 16).map (BitVec.twoPow 16)

end Sys2Proof.Machine
end

