-- ==== Sys2Proof/Certificates/Slice0/Obligations.lean ====
section
/-! DEFINITION. The statements for the provers, one definition each. `Completes c s P` says that exec answers a next
state of which `P` holds; the frames and the words of the results are those of Sys2Proof/Safety.lean. -/

open Sys2Proof Sys2Proof.Machine

/-! ### The step, and what every command leaves -/

/-- A step takes the command at the front of the queue (chapter 0, log 2). -/
def Obligations.StepTakesFront : Prop :=
  ∀ (c : Instr) (q : List Instr) (s : State), step (s.withPending (c :: q)) = exec c (s.withPending q)

/-- Every command answers a next state and leaves the queue; only a cold start moves the model's time. With no command
waiting a millisecond passes. (That a command which is not due, or finds nothing to take, leaves the state and answers
next, and that nothing faults, is the model's choice, log 1; the millisecond is log 2's.) -/
def Obligations.EveryStepAnswersNext : Prop :=
  (∀ (c : Instr) (s : State), Completes c s fun t =>
    t.pending = s.pending ∧ ((∀ f b m, c ≠ .coldStart f b m) → t.ms = s.ms))
  ∧ ∀ s : State, s.pending = [] → step s = .next { s with ms := s.ms + 1 }

/-- A port's own command leaves everything outside its port as PortFrame says: of the budget unit, the estimate, the
ceiling and every figure but the grant table and the queue, and there every other port's grant and request. -/
def Obligations.PortCommandFrame : Prop :=
  ∀ (c : Instr) (p : Port) (s t : State), portOf c = some p → exec c s = .next t → PortFrame p s t

/-- A port's own command leaves every field of the record but those it may change, and clears no status bit (R17). -/
def Obligations.PortRecordFrame : Prop :=
  ∀ (c : Instr) (p : Port) (s t : State), portOf c = some p → exec c s = .next t →
    RecordKept c (s.port p) (t.port p)

/-- A port that is not fitted takes no part in anything (R1), and an answer frame that is damaged, out of range, or
finds no window that it answers is discarded (R21, R22, R24). (That the command then answers next with the state as it
was is the model's choice, log 1; that an ACK which echoes QUERY answers nothing is log 31's.) -/
def Obligations.TurnedAwayCommandsChangeNothing : Prop :=
  (∀ (c : Instr) (p : Port) (s : State), portOf c = some p → s.fitted p = false → exec c s = .next s)
  ∧ (∀ (s : State) (p : Port) (good : Bool) (charge : Byte) (volts a b c : Half) (flags : StatusFlags)
      (echo : Option ReqKind) (why : Option RefuseReason),
      (good = false ∨ 100 < charge.toNat ∨ (s.port p).accepts s.ms statusAnswers = false →
        exec (.statusArrival p good charge volts flags) s = .next s)
      ∧ (good = false ∨ echo = none ∨ (s.port p).accepts s.ms (ackAnswers echo) = false →
        exec (.ackArrival p good echo) s = .next s)
      ∧ (good = false ∨ why = none ∨ (s.port p).accepts s.ms refuseAnswers = false →
        exec (.refuseArrival p good why) s = .next s)
      ∧ (good = false ∨ 100 < charge.toNat ∨ (s.port p).resultOpen s.ms = false →
        exec (.resultArrival p good a b c charge) s = .next s))

/-! ### Invariants -/

/-- Every step keeps the exchange port sound: the plain memory canonical, ATTN as its sources give it (R144, R156), and
the intake queue the POSTED slots, each once (section 10-3). The sources are the four of R156; during an IDLE rest each
of the first three counts only with its condition in the wake mask, and the wake cause word does not count (R144). -/
def Obligations.ExchangePortStaysSound : Prop :=
  (∀ s t : State, step s = .next t →
      (s.memoryCanonical → t.memoryCanonical) ∧ (s.attnDriven → t.attnDriven) ∧ (s.intakePosted → t.intakePosted))
  ∧ ∀ s : State, s.attnLevel = true ↔
      ((∃ i : Slot, s.ex.slots[i.val] = .done ∧ s.ex.doneEn.getLsbD i.val = true)
          ∧ (s.gw.rest = .idle → s.gw.mask &&& condMask .done ≠ 0))
      ∨ (s.ex.partEvent &&& s.ex.partEventEn ≠ 0 ∧ (s.gw.rest = .idle → s.gw.mask &&& condMask .partEvent ≠ 0))
      ∨ ((∃ p, s.fitted p = true ∧ (s.port p).rep.status &&& (s.port p).rep.enable ≠ 0)
          ∧ (s.gw.rest = .idle → s.gw.mask &&& condMask .port ≠ 0))
      ∨ (s.ex.wakeCause ≠ 0 ∧ s.gw.rest ≠ .idle)

/-- Every step keeps the budget unit sound: the granted sum within the ceiling (R63), LIFELINE requests ahead of FEED
requests (R66), a set estimate within the capacity (R58), and every grant's order within the count of grants (R68). -/
def Obligations.BudgetStaysSound : Prop :=
  ∀ s t : State, step s = .next t →
    (s.grantsFit → t.grantsFit) ∧ (s.queueOrdered → t.queueOrdered) ∧ (s.estimateHeld → t.estimateHeld)
      ∧ (s.ordersHeld → t.ordersHeld)

/-- Every step keeps the bounds of the three campaign places (R105), and room on the stack for a campaign that drains
for preemption (R112). -/
def Obligations.CampaignPlacesHold : Prop :=
  ∀ s t : State, s.placesHold → step s = .next t → t.placesHold

/-- Every step keeps the agreement of the port records with the budget unit (R42, R53, R66). -/
def Obligations.GrantsMatchFeedStates : Prop :=
  ∀ s t : State, s.grantsMatchFeed → step s = .next t → t.grantsMatchFeed

/-- Every step keeps the bound on the trip histories, and that none holds an entry twice (R51), in states whose port
records agree with the budget unit. (Of two trips in one second one entry is listed: the model's choice, log 32.) -/
def Obligations.TripHistoryStaysBounded : Prop :=
  ∀ s t : State, s.grantsMatchFeed → s.tripsBounded → step s = .next t → t.tripsBounded

/-- The state right after reset has every invariant stated above (the straps it is read with are the model's, log 3). -/
def Obligations.ResetStateIsSound : Prop :=
  State.reset.memoryCanonical ∧ State.reset.attnDriven ∧ State.reset.grantsFit ∧ State.reset.intakePosted
    ∧ State.reset.queueOrdered ∧ State.reset.ordersHeld ∧ State.reset.placesHold
    ∧ State.reset.estimateHeld ∧ State.reset.grantsMatchFeed ∧ State.reset.tripsBounded

/-! ### Power-up, RESET and the clock -/

/-- What a cold start leaves, whatever stood before. -/
def Obligations.ColdStartState : Prop :=
  ∀ (fit : FitStrap) (boot : Bootpol) (mainsOk : Bool) (s : State),
    Completes (.coldStart fit boot mainsOk) s fun t =>
      t.pending = s.pending
        ∧ t.mc.clock = 0 ∧ t.mc.cause = .cold ∧ t.mc.fit = fit ∧ t.mc.boot = boot ∧ t.mc.mainsOk = mainsOk
        ∧ t.mc.mode = .mains ∧ t.mc.decided = false ∧ t.mc.restoreQual = 60 ∧ t.mc.cutoff = false
        ∧ t.mc.env = { ceiling := 800, floor := 0, cutoff := 4320, limitMax := 40, loadMax := 10 }
        ∧ t.mc.lock = none ∧ t.mc.alarmHours = 0 ∧ t.mc.census.state = .none
        ∧ t.bu.estimate = none ∧ t.bu.capacity = none ∧ t.bu.thresholds = none ∧ t.bu.shed = 0
        ∧ t.bu.ceiling = 800 ∧ t.bu.queue = [] ∧ (∀ p, t.bu.grantOf p = none)
        ∧ t.ce.active = none ∧ t.ce.stack = [] ∧ t.ce.waiting = [] ∧ t.ce.admission = 0
        ∧ t.gw.state = (if boot = .on then .on else .bootWait)
        ∧ t.gw.rest = .none ∧ t.gw.shedLimit = 3 ∧ t.gw.graceTime = 30
        ∧ t.ex.wakeCause = (if boot = .on then Cause.boot.mask else 0)
        ∧ (∀ i : Slot, t.ex.slots[i.val] = .free) ∧ t.ex.intake = [] ∧ t.ex.takeNo = 0 ∧ t.ex.doneEn = 0
        ∧ t.ex.partEvent = 0 ∧ t.ex.partEventEn = 0 ∧ t.ex.spi = .idle
        ∧ (∀ p, (t.port p).setup = { tier := 2, limit := 25, policy := .full, wish := .auto, pollInterval := 300,
                                     threshold := 3 }
            ∧ (t.port p).feed.state = .off ∧ (t.port p).feed.latch = false ∧ (t.port p).feed.trips = []
            ∧ (t.port p).term.state = .unknown ∧ (t.port p).dem.state = .idle ∧ (t.port p).sup.silence = 0
            ∧ (t.port p).bat = { last := none, cooldown := none } ∧ (t.port p).line.item = none
            ∧ (t.port p).rep.status = 0 ∧ (t.port p).rep.enable = 0)
        ∧ ∀ a, (0x400 ≤ a ∧ a < 0x1400) ∨ 0x3400 ≤ a → Memory.read t.ex.mem a = 0

/-- What the RESET line does (R3, R17, R32, R55, R90, R101, R109, R125, R139, R157). To the blocks and the exchange
memory in every state; to a fitted port: its work is discarded, and where no test hold, deferred restart or changed
decision calls for more, the feed and the demand stand, status is 0, a poll is due one interval on, and the line begins
a HALT for a TESTING terminal or the CHARGE of its feed state. A transaction that has begun, with a data
byte or without, is cut until the select line is released (R147). (What becomes of the claims, reports and rewrites that
wait, and that a deferred restart taken in the event comes after the clearing of the status word, is the model's, log
17; that a transaction begins with a data command, be it of no bytes, is log 15's.) -/
def Obligations.ResetLineState : Prop :=
  (∀ s : State, Completes .resetLine s fun t =>
      t.ms = s.ms ∧ t.pending = s.pending
        ∧ t.mc = { s.mc with
            cause := .pin
            census := if s.mc.census.state = .running then { s.mc.census with state := .cut, unanswered := 0 }
              else s.mc.census }
        ∧ t.ce = { s.ce with
            active := none, stack := [], waiting := [], admission := 0, ended := Vector.replicate 12 none
            claims := [], cancels := [], kept := [] }
        ∧ t.gw = (if s.gw.rest = .idle then { s.gw with rest := .none, mask := 0 } else s.gw)
        ∧ t.bu.estimate = s.bu.estimate ∧ t.bu.ceiling = s.bu.ceiling ∧ t.bu.shed = s.bu.shed
        ∧ t.bu.mode = s.bu.mode ∧ t.bu.grantRev = s.bu.grantRev + 2
        ∧ (∀ i : Slot, t.ex.slots[i.val] = .free) ∧ t.ex.intake = [] ∧ t.ex.doneEn = 0 ∧ t.ex.partEvent = 0
        ∧ t.ex.partEventEn = 0 ∧ t.ex.wakeCause = 0 ∧ t.ex.takeNo = s.ex.takeNo
        ∧ t.ex.spi = (if s.ex.spi = .idle then .idle else .blocked)
        ∧ (∀ a, 0x400 ≤ a → a < 0x1400 → Memory.read t.ex.mem a = Memory.read s.ex.mem a)
        ∧ ∀ a, 0x3400 ≤ a → a < 0x3A00 → Memory.read t.ex.mem a = 0)
  ∧ (∀ (s : State) (p : Port), Completes .resetLine s fun t =>
      (s.fitted p = false → t.port p = s.port p)
        ∧ (s.fitted p = true →
            (t.port p).rep.enable = 0 ∧ (t.port p).line.item = none ∧ (t.port p).sup.waiting = []
              ∧ (t.port p).setup = (s.port p).setup ∧ (t.port p).got = (s.port p).got
              ∧ (t.port p).bat = (s.port p).bat ∧ (t.port p).feed.trips = (s.port p).feed.trips
              ∧ (t.port p).box.modes = (s.port p).box.modes ∧ (t.port p).box.tasks = []
              ∧ (t.port p).box.cancels = [] ∧ (t.port p).box.items = [])
        ∧ (s.fitted p = true → (s.port p).feed.hold = false → TargetCurrent s p → (s.port p).sup.deferred = false →
            (t.port p).feed = (s.port p).feed ∧ (t.port p).dem = (s.port p).dem ∧ (t.port p).rep.status = 0
              ∧ (t.port p).sup.pollDue = some (s.clock + (s.port p).setup.pollInterval)
              ∧ (t.port p).sup.silence = (s.port p).sup.silence
              ∧ ((s.port p).lineOpen = true →
                  (t.port p).line.flight = some
                      (if (s.port p).term.state = .testing then
                        { req := { body := .halt, owners := [.reset] }, phase := .firstSend, start := s.ms }
                      else
                        { req := { body := .charge (if (s.port p).feed.state.fed then (s.port p).setup.limit else 0)
                                   owners := [.feed] }
                          phase := .firstSend, start := s.ms })
                    ∧ (t.port p).line.charge =
                      (if (s.port p).term.state = .testing then
                        some (if (s.port p).feed.state.fed then (s.port p).setup.limit else 0)
                      else none))))

/-- The part clock rises by 1 each second, in 32 bits (R90; that it wraps is the model's, log 4); an edge of MAINS_OK
moves the level and the timer that the mode keeps (R91 to R93). -/
def Obligations.ClockAndMainsEdges : Prop :=
  (∀ s : State, s.mc.tickMs + 1000 ≤ s.ms → Completes .partClockTick s fun t =>
      t.mc = { s.mc with clock := (s.mc.clock + 1) % 4294967296, tickMs := s.mc.tickMs + 1000 }
        ∧ t.ms = s.ms ∧ t.pending = s.pending ∧ t.bu = s.bu ∧ t.ce = s.ce ∧ t.ports = s.ports ∧ GatewayKept s t
        ∧ ExchangeKept s t)
  ∧ (∀ s : State,
      (s.mc.mainsOk = true → Completes .mainsOkFall s fun t =>
        t.mc = { s.mc with
            mainsOk := false
            lossTimer := if s.mc.decided = true ∧ s.mc.mode = .mains then some s.ms else s.mc.lossTimer
            restoreTimer := if s.mc.decided = true ∧ s.mc.mode ≠ .mains then none else s.mc.restoreTimer }
          ∧ t.ms = s.ms ∧ t.pending = s.pending ∧ t.bu = s.bu ∧ t.ce = s.ce ∧ t.ports = s.ports
          ∧ GatewayKept s t ∧ ExchangeKept s t)
      ∧ (s.mc.mainsOk = false → Completes .mainsOkRise s fun t =>
        t.mc = { s.mc with
            mainsOk := true
            lossTimer := if s.mc.decided = true ∧ s.mc.mode = .mains then none else s.mc.lossTimer
            restoreTimer := if s.mc.decided = true ∧ s.mc.mode ≠ .mains then some { ms := s.ms, sec := s.mc.clock }
              else s.mc.restoreTimer }
          ∧ t.ms = s.ms ∧ t.pending = s.pending ∧ t.bu = s.bu ∧ t.ce = s.ce ∧ t.ports = s.ports
          ∧ GatewayKept s t ∧ ExchangeKept s t))

/-! ### The mode controller -/

/-- The mode decided at 500 ms (R91): high, MAINS with no MODE_CHANGED; low, OUTAGE with MODE_CHANGED and, if the
estimate is unset, BUDGET_UNSET; HOLD follows where the floor or the cutoff condition stands (R97; that a low decision
is followed as a loss is, and that HOLD waits as the next event, is the model's, log 18). Later a loss of mains is
qualified after 500 ms of a low MAINS_OK, and a restore after the restore qualification time of a high one (R92, R93,
R95, R96, R99, R100). -/
def Obligations.ModeIsDecidedAndChanged : Prop :=
  (∀ s : State, s.mc.decided = false → 500 ≤ s.ms → s.mc.mode = .mains →
      (s.mc.mainsOk = true → Completes .modeDecision s fun t =>
        t.mc = { s.mc with decided := true } ∧ ModeHandedOnly s t .mains ∧ ExchangeKept s t)
      ∧ (s.mc.mainsOk = false → Completes .modeDecision s fun t =>
        t.mc = { s.mc with
            decided := true, mode := .outage, modeTime := s.mc.clock, lossTimer := none, nextAlarm := none
            holdNext := s.mc.floorTaken || s.mc.cutoff }
          ∧ ModeHandedOnly s t .outage
          ∧ EventsNow s t (if s.bu.estimate = none then
              s.ex.partEvent ||| PartEvent.modeChanged.mask ||| PartEvent.budgetUnset.mask
            else s.ex.partEvent ||| PartEvent.modeChanged.mask)))
  ∧ (∀ (s : State) (t0 : Ms) (w : Stamp),
      (s.mc.mode = .mains → s.mc.lossTimer = some t0 → t0 + 500 ≤ s.ms → Completes .lossQualified s fun t =>
        t.mc = { s.mc with
            mode := .outage, modeTime := s.mc.clock, lossTimer := none, nextAlarm := none
            holdNext := s.mc.floorTaken || s.mc.cutoff }
          ∧ ModeHandedOnly s t .outage
          ∧ EventsNow s t (if s.bu.estimate = none then
              s.ex.partEvent ||| PartEvent.modeChanged.mask ||| PartEvent.budgetUnset.mask
            else s.ex.partEvent ||| PartEvent.modeChanged.mask))
      ∧ (s.mc.mode ≠ .mains → s.mc.restoreTimer = some w → w.ms + 1000 * s.mc.restoreQual ≤ s.ms →
        Completes .restoreQualified s fun t =>
          t.mc = { s.mc with
              mode := .mains, modeTime := s.mc.clock, lossTimer := none, restoreTimer := none, nextAlarm := none
              holdExits := if s.mc.mode = .hold then min (s.mc.holdExits + 1) 65535 else s.mc.holdExits
              resumed := if s.mc.mode = .hold then true else s.mc.resumed }
            ∧ ModeHandedOnly s t .mains
            ∧ EventsNow s t (s.ex.partEvent ||| PartEvent.modeChanged.mask)))

/-- HOLD is entered from OUTAGE and left for OUTAGE: by the event after a qualified loss, and by a change of the floor
condition (R92, R97, R99, R100; what the event after the loss judges is the model's, log 18). -/
def Obligations.HoldEnteredAndLeft : Prop :=
  ∀ (s : State) (rest : List Bool),
    (s.mc.holdNext = true → s.mc.mode = .outage → (s.mc.floorTaken = true ∨ s.mc.cutoff = true) →
      Completes .holdAfterLoss s fun t =>
        t.mc = { s.mc with
            holdNext := false, mode := .hold, modeTime := s.mc.clock, lossTimer := none
            nextAlarm := if s.mc.alarmHours = 0 then none else some (s.mc.clock + 3600 * s.mc.alarmHours) }
          ∧ ModeHandedOnly s t .hold ∧ EventsNow s t (s.ex.partEvent ||| PartEvent.modeChanged.mask))
    ∧ (s.mc.floors = true :: rest → s.mc.mode = .outage → Completes .modeTakeFloorCondition s fun t =>
        t.mc = { s.mc with
            floors := rest, floorTaken := true, mode := .hold, modeTime := s.mc.clock, lossTimer := none
            nextAlarm := if s.mc.alarmHours = 0 then none else some (s.mc.clock + 3600 * s.mc.alarmHours) }
          ∧ ModeHandedOnly s t .hold ∧ EventsNow s t (s.ex.partEvent ||| PartEvent.modeChanged.mask))
    ∧ (s.mc.floors = false :: rest → s.mc.mode = .hold → s.mc.cutoff = false →
      Completes .modeTakeFloorCondition s fun t =>
        t.mc = { s.mc with
            floors := rest, floorTaken := false, mode := .outage, modeTime := s.mc.clock, lossTimer := none
            nextAlarm := none, holdExits := min (s.mc.holdExits + 1) 65535, resumed := true }
          ∧ ModeHandedOnly s t .outage ∧ EventsNow s t (s.ex.partEvent ||| PartEvent.modeChanged.mask))
    ∧ (s.mc.floors = false :: rest → s.mc.cutoff = true → Completes .modeTakeFloorCondition s fun t =>
        t.mc = { s.mc with floors := rest, floorTaken := false } ∧ t.bu = s.bu ∧ t.ce = s.ce ∧ t.ports = s.ports
          ∧ ExchangeKept s t)

/-- The envelope window locks by EXPIRED at part clock 900 (R102). The hold alarm falls due again one period later and
begins a census, unless one still runs (R100, R101); a census with no port to ask is DONE at once (the model's, log 12).
-/
def Obligations.EnvelopeWindowAndHoldAlarm : Prop :=
  (∀ s : State, s.mc.lock = none → 900 ≤ s.mc.clock → Completes .envelopeWindowExpiry s fun t =>
      t.mc = { s.mc with lock := some (.expired, s.mc.clock) }
        ∧ EventsNow s t (s.ex.partEvent ||| PartEvent.envelopeLocked.mask)
        ∧ t.ms = s.ms ∧ t.pending = s.pending ∧ t.bu = s.bu ∧ t.ce = s.ce ∧ t.ports = s.ports ∧ GatewayKept s t)
  ∧ (∀ (s : State) (a : Time), s.mc.mode = .hold → s.mc.nextAlarm = some a → a ≤ s.mc.clock →
      (s.mc.census.state = .running → Completes .holdAlarmExpiry s fun t =>
        t.mc = { s.mc with nextAlarm := some (a + 3600 * s.mc.alarmHours) } ∧ t.ports = s.ports)
      ∧ (s.mc.census.state ≠ .running → (∃ p, s.fitted p = true ∧ (s.port p).canAsk = true) →
        Completes .holdAlarmExpiry s fun t =>
          t.mc = { s.mc with
              nextAlarm := some (a + 3600 * s.mc.alarmHours)
              census := { state := .running, start := some s.mc.clock, asked := 0, answered := 0, silent := 0,
                          lost := 0, unanswered := fitCount s.mc.fit } }
            ∧ (∀ p, (t.port p).box.census = (s.fitted p || (s.port p).box.census)
                ∧ (t.port p).line = (s.port p).line)
            ∧ t.ex.partEvent = s.ex.partEvent)
      ∧ (s.mc.census.state ≠ .running → (∀ p, s.fitted p = true → (s.port p).canAsk = false) →
        Completes .holdAlarmExpiry s fun t =>
          t.mc.census = { state := .done, start := some s.mc.clock, asked := 0, answered := 0, silent := 0, lost := 0,
                          unanswered := 0 }
            ∧ t.mc.nextAlarm = some (a + 3600 * s.mc.alarmHours)
            ∧ EventsNow s t (s.ex.partEvent ||| PartEvent.holdCensus.mask) ∧ t.ports = s.ports))

/-! ### The bank and the budget -/

/-- The shed level by the table of R60, and the floor condition of R62. -/
def Obligations.ShedLevelTable : Prop :=
  ∀ (b : Budget) (e : Nat) (h : Thresholds),
    (b.mode = .mains ∨ b.estimate = none → b.level = 0)
    ∧ (b.mode ≠ .mains → b.estimate = some e → b.thresholds = some h → h.t2 < h.t3 → h.t1 < h.t2 → b.floor < h.t1 →
        (h.t3 ≤ e → b.level = 0)
        ∧ (h.t2 ≤ e ∧ e < h.t3 → b.level = 1)
        ∧ (h.t1 ≤ e ∧ e < h.t2 → b.level = 2)
        ∧ (b.floor ≤ e ∧ e < h.t1 → b.level = 3)
        ∧ (e < b.floor → b.level = 4))
    ∧ (b.estimate = some e → (b.belowFloor = true ↔ e < b.floor))
    ∧ (b.estimate = none → b.belowFloor = false)

/-- The budget unit takes a mode: the shed level and the floor condition are evaluated under it, and the grants, the
queue and the estimate stand (R60 to R62, R78). It takes a new ceiling with its floor (R63, R73): grants are revoked
until the sum fits, FEED before LIFELINE and within a kind the highest tier number first, then the most recent, and the
level and the condition are evaluated. Said of one FEED and one LIFELINE grant: the FEED grant alone is revoked where
that is enough, and each port revoked waits, PREEMPTED not set, its request queued again under a new arrival number.
The order of the revocations is that of the states in which the port records and the budget unit agree (R42, R64, R66),
which every step keeps. (The campaign engine holds a new level at once: the model's choice, log 5.) -/
def Obligations.BudgetTakesModeAndCeiling : Prop :=
  (∀ (s : State) (m : Mode) (rest : List Mode), s.bu.modes = m :: rest → Completes .budgetTakeMode s fun t =>
      ShedEvaluated { s.bu with mode := m, modes := rest } s t ∧ t.ms = s.ms ∧ t.pending = s.pending)
  ∧ (∀ (s : State) (c f : Nat) (rest : List (Nat × Nat)), s.bu.ceilings = (c, f) :: rest →
      (Completes .budgetTakeCeiling s fun t =>
        t.bu.ceiling = c ∧ t.bu.floor = f ∧ t.bu.ceilings = rest ∧ t.bu.granted ≤ c ∧ t.bu.due = false
          ∧ t.bu.estimate = s.bu.estimate ∧ t.bu.capacity = s.bu.capacity ∧ t.bu.thresholds = s.bu.thresholds
          ∧ t.bu.mode = s.bu.mode ∧ t.bu.shed = t.bu.level ∧ t.bu.floorCond = t.bu.belowFloor
          ∧ t.ms = s.ms ∧ t.pending = s.pending
          ∧ t.ce = (if t.bu.shed = s.bu.shed then s.ce else { s.ce with shed := t.bu.shed }))
      ∧ (s.grantsMatchFeed → s.ordersHeld → Completes .budgetTakeCeiling s fun t =>
        ∀ p q g h, s.bu.grantOf p = some g → s.bu.grantOf q = some h → t.bu.grantOf p = some g →
          t.bu.grantOf q ≠ some h →
            ¬ (g.kind = .feed ∧ h.kind = .lifeline)
              ∧ (g.kind = h.kind → ¬ (h.tier < g.tier ∨ h.tier = g.tier ∧ h.order < g.order)))
      ∧ (∀ (v l : Port) (g h : Grant), v ≠ l → s.bu.queue = [] → s.bu.grantOf v = some g → s.bu.grantOf l = some h →
          g.kind = .feed → h.kind = .lifeline → (∀ p, p ≠ v → p ≠ l → s.bu.grantOf p = none) →
          (h.amount ≤ c → c < g.amount + h.amount → Completes .budgetTakeCeiling s fun t =>
            t.bu.grantOf l = some h ∧ t.bu.grantOf v = none
              ∧ t.bu.queue = [{ port := v, amount := g.amount, kind := .feed, tier := g.tier,
                                arrival := s.bu.arrivals + 1 }]
              ∧ (t.port v).feed.state = .waiting ∧ (t.port v).rep.status = (s.port v).rep.status
              ∧ (t.port l).feed = (s.port l).feed)
          ∧ (c < h.amount → Completes .budgetTakeCeiling s fun t =>
            t.bu.grantOf l = none ∧ t.bu.grantOf v = none
              ∧ t.bu.queue = [{ port := l, amount := h.amount, kind := .lifeline, tier := h.tier,
                                arrival := s.bu.arrivals + 2 },
                              { port := v, amount := g.amount, kind := .feed, tier := g.tier,
                                arrival := s.bu.arrivals + 1 }]
              ∧ (t.port v).feed.state = .waiting ∧ (t.port l).feed.state = .waiting
              ∧ (t.port v).rep.status = (s.port v).rep.status
              ∧ (t.port l).rep.status = (s.port l).rep.status)))

/-- A bank sample: its figures are shown, the charge it moves is conserved between the estimate and the residue unless
the estimate stands at its end, and the part status record is asked for (R56, R58). -/
def Obligations.BankSampleMovesEstimate : Prop :=
  ∀ (s : State) (v a : Half), s.bu.lastSample ≠ s.mc.clock → s.estimateHeld → Completes (.bankSample v a) s fun t =>
    t.bu.volts = v ∧ t.bu.amps = a ∧ t.bu.lastSample = s.mc.clock
      ∧ t.bu.table = s.bu.table ∧ t.bu.queue = s.bu.queue ∧ t.bu.ceiling = s.bu.ceiling
      ∧ t.bu.capacity = s.bu.capacity ∧ t.bu.thresholds = s.bu.thresholds ∧ t.bu.floor = s.bu.floor
      ∧ t.bu.mode = s.bu.mode
      ∧ (s.bu.estimate = none → t.bu.estimate = none ∧ t.bu.residue = s.bu.residue)
      ∧ (∀ e c, s.bu.estimate = some e → s.bu.capacity = some c → ∃ e', t.bu.estimate = some e' ∧ e' ≤ c
          ∧ -3600 < t.bu.residue ∧ t.bu.residue < 3600
          ∧ (3600 * (e' : Int) - t.bu.residue = 3600 * (e : Int) - (s.bu.residue + a.toInt)
              ∨ e' = 0 ∧ t.bu.residue = 0 ∧ 3600 * (e : Int) - (s.bu.residue + a.toInt) ≤ 0
              ∨ e' = c ∧ t.bu.residue = 0 ∧ 3600 * (c : Int) ≤ 3600 * (e : Int) - (s.bu.residue + a.toInt)))
      ∧ (t.bu.estimate = s.bu.estimate → t.bu.shed = s.bu.shed ∧ t.bu.floorCond = s.bu.floorCond)
      ∧ (t.bu.estimate ≠ s.bu.estimate → t.bu.shed = t.bu.level ∧ t.bu.floorCond = t.bu.belowFloor)
      ∧ ViewId.partStatus ∈ t.ex.views

/-- Entry to cutoff (R87): a sample below the cutoff voltage starts the entry timer, one at or above it stops the timer,
and one below it 5 s or more after the start brings the condition into force. -/
def Obligations.CutoffEntry : Prop :=
  ∀ (s : State) (v a : Half), s.bu.lastSample ≠ s.mc.clock → s.mc.cutoff = false →
    (s.mc.env.cutoff ≤ v.toNat → Completes (.bankSample v a) s fun t =>
      t.mc.cutoff = false ∧ t.mc.cutEntry = none ∧ t.mc.cutTime = s.mc.cutTime)
    ∧ (v.toNat < s.mc.env.cutoff → s.mc.cutEntry = none → Completes (.bankSample v a) s fun t =>
      t.mc.cutoff = false ∧ t.mc.cutEntry = some s.mc.clock ∧ t.mc.cutTime = s.mc.cutTime)
    ∧ (∀ t0, v.toNat < s.mc.env.cutoff → s.mc.cutEntry = some t0 → s.mc.clock < t0 + 5 →
      Completes (.bankSample v a) s fun t =>
        t.mc.cutoff = false ∧ t.mc.cutEntry = some t0 ∧ t.mc.cutTime = s.mc.cutTime)
    ∧ (∀ t0, v.toNat < s.mc.env.cutoff → s.mc.cutEntry = some t0 → t0 + 5 ≤ s.mc.clock →
      Completes (.bankSample v a) s fun t =>
        t.mc.cutoff = true ∧ t.mc.cutEntry = none ∧ t.mc.cutTime = some s.mc.clock ∧ Raised t .cutoff
          ∧ (∀ p, s.fitted p = true → (t.port p).box.cutoffs = (s.port p).box.cutoffs ++ [true])
          ∧ t.mc.mode = (if s.mc.mode = .outage then .hold else s.mc.mode))

/-- The lifting of cutoff (R88). -/
def Obligations.CutoffLifting : Prop :=
  ∀ (s : State) (v a : Half), s.bu.lastSample ≠ s.mc.clock → s.mc.cutoff = true →
    (v.toNat < s.mc.env.cutoff + 100 → Completes (.bankSample v a) s fun t =>
      t.mc.cutoff = true ∧ t.mc.cutLift = none ∧ t.mc.cutTime = s.mc.cutTime)
    ∧ (s.mc.env.cutoff + 100 ≤ v.toNat → s.mc.cutLift = none → Completes (.bankSample v a) s fun t =>
      t.mc.cutoff = true ∧ t.mc.cutLift = some s.mc.clock ∧ t.mc.cutTime = s.mc.cutTime)
    ∧ (∀ t0, s.mc.env.cutoff + 100 ≤ v.toNat → s.mc.cutLift = some t0 → s.mc.clock < t0 + 60 →
      Completes (.bankSample v a) s fun t =>
        t.mc.cutoff = true ∧ t.mc.cutLift = some t0 ∧ t.mc.cutTime = s.mc.cutTime)
    ∧ (∀ t0, s.mc.env.cutoff + 100 ≤ v.toNat → s.mc.cutLift = some t0 → t0 + 60 ≤ s.mc.clock →
      Completes (.bankSample v a) s fun t =>
        t.mc.cutoff = false ∧ t.mc.cutLift = none ∧ t.mc.cutTime = s.mc.cutTime ∧ Raised t .cutoff
          ∧ (∀ p, s.fitted p = true → (t.port p).box.cutoffs = (s.port p).box.cutoffs ++ [false])
          ∧ t.mc.mode = (if s.mc.mode = .hold ∧ s.mc.floorTaken = false then .outage else s.mc.mode))

/-- A head that fits is granted: its request leaves the queue, its port's place fills with the next grant order, and the
port enters the state of its target, with a CHARGE of its limit code (R33, R43, R45, R68). A FEED head that does not fit
blocks every request behind it. -/
def Obligations.FittingHeadIsGrantedFeedHeadBlocks : Prop :=
  (∀ (s : State) (q : GrantReq), s.bu.due = true → s.bu.queue = [q] → q.amount ≤ s.bu.pool →
      (s.port q.port).feed.state = .waiting →
      (∀ k, (s.port q.port).feed.target = .full k → Completes .grantQueueServe s fun t =>
        t.bu = { s.bu.setPlace q.port (some { amount := q.amount, kind := q.kind, tier := q.tier, time := s.mc.clock,
                                              order := s.bu.orders + 1 }) with
            queue := [], orders := s.bu.orders + 1, due := false }
          ∧ (t.port q.port).feed.state = .full
          ∧ ChargeHanded s t q.port (s.port q.port).setup.limit ∧ OtherPorts q.port s t ∧ t.ce = s.ce)
      ∧ (∀ e k, (s.port q.port).feed.target = .duty e k → Completes .grantQueueServe s fun t =>
        t.bu = { s.bu.setPlace q.port (some { amount := q.amount, kind := q.kind, tier := q.tier, time := s.mc.clock,
                                              order := s.bu.orders + 1 }) with
            queue := [], orders := s.bu.orders + 1, due := false }
          ∧ (t.port q.port).feed.state = .duty
          ∧ (t.port q.port).feed.duty = some { on := true, start := s.mc.clock, eighths := e }
          ∧ ChargeHanded s t q.port (s.port q.port).setup.limit ∧ OtherPorts q.port s t ∧ t.ce = s.ce))
  ∧ (∀ (s : State) (q : GrantReq) (rest : List GrantReq), s.bu.due = true → s.bu.queue = q :: rest → q.kind = .feed →
      s.bu.pool < q.amount → Completes .grantQueueServe s fun t =>
        t.bu = { s.bu with due := false } ∧ t.ports = s.ports ∧ t.mc = s.mc ∧ t.ce = s.ce ∧ t.ms = s.ms
          ∧ t.pending = s.pending ∧ GatewayKept s t ∧ ExchangeKept s t)

/-- The grant revoked first: no grant of its kind has a higher tier number, or the same and a later grant (R70, R73). A
LIFELINE head that does not fit takes a FEED grant back and is granted: the port revoked waits with PREEMPTED set, its
request queued again under a new arrival number, and its line is handed CHARGE 0 and the granted port's its limit code
(R33, R44, R68, R70). -/
def Obligations.LifelinePreempts : Prop :=
  (∀ (b : Budget) (k : GrantKind) (p : Port) (g : Grant), b.victim k = some (p, g) →
      b.grantOf p = some g ∧ g.kind = k
        ∧ ∀ q h, b.grantOf q = some h → h.kind = k → ¬ (g.tier < h.tier ∨ h.tier = g.tier ∧ g.order < h.order))
  ∧ (∀ (s : State) (q : GrantReq) (v : Port) (g : Grant), s.bu.due = true → s.bu.queue = [q] → q.kind = .lifeline →
      s.grantsFit → s.bu.pool < q.amount → q.amount ≤ s.bu.pool + g.amount → v ≠ q.port →
      s.bu.grantOf v = some g → g.kind = .feed → s.bu.grantOf q.port = none →
      (∀ p h, p ≠ v → s.bu.grantOf p = some h → h.kind = .lifeline) →
      (s.port q.port).feed.state = .waiting → (s.port q.port).feed.target = .full .lifeline →
      Completes .grantQueueServe s fun t =>
        t.bu.grantOf q.port = some { amount := q.amount, kind := .lifeline, tier := q.tier, time := s.mc.clock,
                                     order := s.bu.orders + 1 }
          ∧ t.bu.grantOf v = none
          ∧ t.bu.queue = [{ port := v, amount := g.amount, kind := .feed, tier := g.tier,
                            arrival := s.bu.arrivals + 1 }]
          ∧ (t.port q.port).feed.state = .full ∧ (t.port v).feed.state = .waiting ∧ Marked t v .preempted
          ∧ ChargeHanded s t q.port (s.port q.port).setup.limit
          ∧ ((s.port v).feed.state = .full ∨ (s.port v).feed.state = .duty → ChargeHanded s t v 0)
          ∧ ∀ p, p ≠ v → p ≠ q.port → t.port p = s.port p ∧ t.bu.grantOf p = s.bu.grantOf p)

/-! ### The feed decision and the claims of other blocks -/

/-- Lifeline-eligible, feeding-eligible and shed (R38). -/
def Obligations.Eligibility : Prop :=
  ∀ r : PortRecord,
    (r.lifelineEligible = true ↔
      (r.dem.state = .active ∨ r.dem.state = .ending)
        ∧ (r.got.mode ≠ .mains ∨ ∃ f, r.term.flags = some f ∧ f.onBattery = true)
        ∧ r.got.cutoff = false)
    ∧ (r.feedingEligible = true ↔
      (r.got.mode = .outage ∨ r.got.mode = .mains ∧ ∃ f, r.term.flags = some f ∧ f.onBattery = true)
        ∧ r.got.mode ≠ .hold ∧ r.got.cutoff = false ∧ r.term.state ≠ .unknown)
    ∧ (r.shed = true ↔ 4 ≤ r.got.shed + r.setup.tier)

/-- The feed decision table, read from the top (R37). -/
def Obligations.FeedDecisionTable : Prop :=
  ∀ r : PortRecord,
    (r.setup.wish = .disabled → r.decision = .off)
    ∧ (r.setup.wish ≠ .disabled → r.feed.latch = true → r.decision = .fault)
    ∧ (r.setup.wish ≠ .disabled → r.feed.latch = false →
        (r.feed.offTime.isSome = true → r.decision = .cycling)
        ∧ (r.feed.offTime = none → r.feed.cooling.isSome = true → r.decision = .tripped)
        ∧ (r.feed.offTime = none → r.feed.cooling = none →
            (r.term.state = .absent → r.decision = .bias)
            ∧ (r.term.state ≠ .absent → r.lifelineEligible = true → r.decision = .full .lifeline)
            ∧ (r.term.state ≠ .absent → r.lifelineEligible = false →
                (r.feed.hold = true ∨ r.setup.wish = .forceBias → r.decision = .bias)
                ∧ (r.feed.hold = false → r.setup.wish = .auto →
                    (r.feedingEligible = true → r.shed = false → r.setup.policy = .full → r.decision = .full .feed)
                    ∧ (∀ e, r.feedingEligible = true → r.shed = false → r.setup.policy = .duty e →
                        r.decision = .duty e .feed)
                    ∧ (r.feedingEligible = false ∨ r.shed = true ∨ r.setup.policy = .bias →
                        r.decision = .bias)))))

/-- The lifeline standing of a port, by the first row of its table that holds; the two counts of the part status record
and the standing in the port view; and the rewrites that each change of a standing leads to (R79). -/
def Obligations.LifelineStanding : Prop :=
  (∀ (r : PortRecord) (g : Option Grant) (q : Option GrantReq),
      (r.dem.state = .idle → r.standing g q = .none)
      ∧ (r.dem.state ≠ .idle →
          (r.feed.latch = true → r.standing g q = .fault)
          ∧ (r.feed.latch = false →
              (r.feed.cooling.isSome = true → r.standing g q = .cooling)
              ∧ (r.feed.cooling = none →
                  (r.got.cutoff = true → r.standing g q = .cutoff)
                  ∧ (r.got.cutoff = false →
                      (r.got.mode = .mains → (∀ f, r.term.flags = some f → f.onBattery = false) →
                        r.standing g q = .onMains)
                      ∧ ((r.got.mode ≠ .mains ∨ ∃ f, r.term.flags = some f ∧ f.onBattery = true) →
                          (∀ x, g = some x → x.kind = .lifeline → r.standing g q = .fed)
                          ∧ (∀ x, g = none → q = some x → x.kind = .lifeline → r.standing g q = .waiting)))))))
  ∧ (∀ s : State,
      s.psrBytes.getD 95 0 = Memory.byte (allPorts.countP fun p => s.fitted p && decide (s.standing p ≠ .none))
      ∧ s.psrBytes.getD 96 0 = Memory.byte (allPorts.countP fun p =>
          s.fitted p && [Standing.fault, .cooling, .cutoff, .waiting].contains (s.standing p))
      ∧ ∀ p, (s.portBytes p).getD 11 0 = Memory.byte (s.standing p).code)
  ∧ (∀ (c : Instr) (s t : State), exec c s = .next t → (∀ f b m, c ≠ .coldStart f b m) → c ≠ .resetLine →
      ∀ p, t.fitted p = true → t.standing p ≠ s.standing p →
        ViewId.partStatus ∈ t.ex.views ∧ ViewId.port p ∈ t.ex.views)

/-- A port takes a mode, a change of the cutoff condition or a shed level: the figure is in its record, the claim is
gone, and its target is what the decision table gives with it (R39, R61, R89, R94). HOLD suspends polling (R10): the
poll lets go of every QUERY still queued, one left with no owner leaves the queue, and the poll due time is the part
clock (if no poll was queued it stands: the model's reading, log 9); a poll that falls due then waits. A shed level that
makes a feeding-eligible port shed sets SHED, and one that makes it shed no more sets UNSHED, where the policy would
feed it (R39). A limit maximum cuts a limit above it, with the amount of a grant above it, a CHARGE of it handed to the
line (R33), or the amount of a request; a limit at or below it stands (R47, R74). -/
def Obligations.PortTakesFiguresOfOthers : Prop :=
  (∀ (s : State) (p : Port), Steered s p →
      (∀ m rest, (s.port p).box.modes = m :: rest → Completes (.portTakeMode p) s fun t =>
        (t.port p).got = { (s.port p).got with mode := m } ∧ (t.port p).box.modes = rest ∧ TargetCurrent t p)
      ∧ (∀ on rest, (s.port p).box.cutoffs = on :: rest → Completes (.portTakeCutoffChange p) s fun t =>
        (t.port p).got = { (s.port p).got with cutoff := on } ∧ (t.port p).box.cutoffs = rest ∧ TargetCurrent t p)
      ∧ (∀ n rest, (s.port p).box.sheds = n :: rest → Completes (.portTakeShedLevel p) s fun t =>
        (t.port p).got = { (s.port p).got with shed := n } ∧ (t.port p).box.sheds = rest ∧ TargetCurrent t p))
  ∧ (∀ (s : State) (p : Port) (rest : List Mode) (f : Flight), Steered s p → (s.port p).box.modes = .hold :: rest →
      (s.port p).line.flight = some f → (s.port p).term.awakeDue = false →
      { s.port p with got := { (s.port p).got with mode := .hold } }.decision = (s.port p).feed.target →
      ((∃ q, q ∈ (s.port p).line.general ∧ Owner.poll ∈ q.owners) → Completes (.portTakeMode p) s fun t =>
        (t.port p).line = { (s.port p).line with
            general := ((s.port p).line.general.map fun q =>
              { q with owners := q.owners.filter fun o => decide (o ≠ .poll) }).filter fun q =>
                decide (q.owners ≠ []) }
          ∧ (t.port p).sup.pollDue = some s.mc.clock ∧ exec (.pollDue p) t = .next t)
      ∧ ((∀ q, q ∈ (s.port p).line.general → Owner.poll ∉ q.owners) → Completes (.portTakeMode p) s fun t =>
        (t.port p).line = (s.port p).line ∧ (t.port p).sup.pollDue = (s.port p).sup.pollDue
          ∧ exec (.pollDue p) t = .next t))
  ∧ (∀ (s : State) (p : Port) (n : Nat) (rest : List Nat), s.fitted p = true → (s.port p).box.sheds = n :: rest →
      (s.port p).feedingEligible = true → (s.port p).setup.policy ≠ .bias →
      ((s.port p).got.shed + (s.port p).setup.tier < 4 → 4 ≤ n + (s.port p).setup.tier →
        Completes (.portTakeShedLevel p) s fun t => Marked t p .shed)
      ∧ (4 ≤ (s.port p).got.shed + (s.port p).setup.tier → n + (s.port p).setup.tier < 4 →
        Completes (.portTakeShedLevel p) s fun t => Marked t p .unshed))
  ∧ (∀ (s : State) (p : Port) (m : Nat) (rest : List Nat), s.fitted p = true → (s.port p).box.limits = m :: rest →
      (Completes (.portTakeLimitMaximum p) s fun t =>
        (t.port p).setup = { (s.port p).setup with limit := min (s.port p).setup.limit m }
          ∧ (t.port p).box.limits = rest)
      ∧ ((s.port p).setup.limit ≤ m → Completes (.portTakeLimitMaximum p) s fun t => t.bu = s.bu)
      ∧ (∀ g, m < (s.port p).setup.limit → s.bu.grantOf p = some g → m < g.amount →
        Completes (.portTakeLimitMaximum p) s fun t =>
          t.bu = { s.bu.setPlace p (some { g with amount := m }) with due := true } ∧ ChargeHanded s t p m)
      ∧ (∀ q, m < (s.port p).setup.limit → s.bu.grantOf p = none → s.bu.requestOf p = some q → q.amount ≠ m →
        Completes (.portTakeLimitMaximum p) s fun t =>
          t.bu = { s.bu with
            queue := s.bu.queue.map fun q => if q.port = p then { q with amount := m } else q
            due := true }))

/-- A port answers its census claim while the census runs: asked, with its QUERY on the line, merged, or lost, or not
asked (R30, R101). The line is one with a request in flight, so that nothing else begins. -/
def Obligations.CensusClaimAnswered : Prop :=
  ∀ (s : State) (p : Port) (f : Flight), s.fitted p = true → (s.port p).box.census = true →
    s.mc.census.state = .running → 1 ≤ s.mc.census.unanswered → (s.port p).line.flight = some f →
    (s.port p).term.awakeDue = false →
    ((s.port p).canAsk = false → Completes (.portTakeCensusClaim p) s fun t =>
      t.mc.census.asked = s.mc.census.asked ∧ t.mc.census.lost = s.mc.census.lost
        ∧ t.mc.census.unanswered = s.mc.census.unanswered - 1 ∧ (t.port p).line = (s.port p).line
        ∧ (t.port p).box.census = false)
    ∧ ((s.port p).canAsk = true → (s.port p).line.hasQuery = true → Completes (.portTakeCensusClaim p) s fun t =>
      t.mc.census.asked = s.mc.census.asked + 1 ∧ t.mc.census.lost = s.mc.census.lost
        ∧ t.mc.census.unanswered = s.mc.census.unanswered - 1
        ∧ (t.port p).line.owners.count .census = (s.port p).line.owners.count .census + 1
        ∧ (t.port p).line.general.length = (s.port p).line.general.length)
    ∧ ((s.port p).canAsk = true → (s.port p).line.hasQuery = false → (s.port p).line.general.length < 4 →
      Completes (.portTakeCensusClaim p) s fun t =>
        t.mc.census.asked = s.mc.census.asked + 1 ∧ t.mc.census.lost = s.mc.census.lost
          ∧ t.mc.census.unanswered = s.mc.census.unanswered - 1
          ∧ (t.port p).line =
            { (s.port p).line with
              general := (s.port p).line.general ++ [{ body := .query, owners := [.census] }] })
    ∧ ((s.port p).canAsk = true → (s.port p).line.hasQuery = false → 4 ≤ (s.port p).line.general.length →
      Completes (.portTakeCensusClaim p) s fun t =>
        t.mc.census.asked = s.mc.census.asked + 1 ∧ t.mc.census.lost = s.mc.census.lost + 1
          ∧ t.mc.census.unanswered = s.mc.census.unanswered - 1 ∧ (t.port p).line = (s.port p).line)

/-! ### Presence, shorts and what the line senses -/

/-- The first evaluation of a port leaves the target current, and brings one that is OFF since cold start bias, the COLD
restart and the first poll (R2, R10, R55). Two seconds of a current of 2 mA or more make an ABSENT terminal UNKNOWN
again, with a poll due 20 s on (R7). -/
def Obligations.FirstEvaluationAndPresence : Prop :=
  (∀ (s : State) (p : Port), s.fitted p = true → (s.port p).feed.started = false → 5000 ≤ s.ms →
      (s.port p).feed.offTime = none →
      (Completes (.firstEvaluation p) s fun t => (t.port p).feed.started = true ∧ TargetCurrent t p)
      ∧ ((s.port p).feed.state = .off → (s.port p).feed.target = .off → (s.port p).feed.coldDone = false →
          (s.port p).decision = .bias → (s.port p).term.awakeDue = false →
          Completes (.firstEvaluation p) s fun t =>
            (t.port p).feed.state = .bias ∧ (t.port p).feed.coldDone = true
              ∧ (t.port p).sup.cause = .cold ∧ (t.port p).sup.restarts = 1
              ∧ (t.port p).sup.lastRestart = some s.mc.clock ∧ (t.port p).sup.pollDue = some (s.mc.clock + 20)
              ∧ Marked t p .restarted))
  ∧ (∀ (s : State) (p : Port) (t0 : Ms), Steered s p → (s.port p).tim.presence = some t0 → t0 + 2000 ≤ s.ms →
      (s.port p).term.awakeDue = false → Completes (.presenceRegained p) s fun t =>
        (t.port p).term.state = .unknown ∧ Marked t p .present ∧ (t.port p).sup.pollDue = some (s.mc.clock + 20)
          ∧ TargetCurrent t p)

/-- Ten seconds of a current below 2 mA make the terminal ABSENT: the line's work is abandoned, each host task on the
line completes WRONG_STATE, and the target is evaluated (R6). -/
def Obligations.TerminalBecomesAbsent : Prop :=
  ∀ (s : State) (p : Port) (t0 : Ms), Steered s p → (s.port p).tim.absence = some t0 → t0 + 10000 ≤ s.ms →
    Completes (.terminalAbsent p) s fun t =>
      (t.port p).term.state = .absent ∧ Marked t p .absent ∧ (t.port p).sup.silence = 0
        ∧ (t.port p).term.awakeUntil = none
        ∧ (t.port p).line = { item := none, flight := none, halt := none, charge := none, general := [],
                              window := none }
        ∧ TargetCurrent t p
        ∧ (∀ u, Owner.task u ∈ (s.port p).line.owners → HoldsSlot s u → Answered s t u .wrongState [])
        ∧ ∀ i, (s.port p).line.item = some i → Report.ended i.num ∈ (t.port p).box.out
            ∧ (i.phase ≠ .ending → Report.result i.num .abortedRestart ∈ (t.port p).box.out)

/-- What the line engine senses: a short begins and ends after 2 s (R8); a new current runs and stops the presence,
absence, short and overcurrent timers (R6, R7, R8, R49); once each second the record's measured current is refreshed
with the current in units of 10 mA (R19; a part of a unit goes either way, log 21); the demand signal runs the
qualification timer of an IDLE demand or the resume timer of an ENDING one, its loss makes an ACTIVE demand ENDING, and
100 ms of it make an ENDING demand ACTIVE again, the same demand (R34, R35). -/
def Obligations.LineSensing : Prop :=
  (∀ (s : State) (p : Port) (t0 : Ms), s.fitted p = true →
      ((s.port p).tim.short = some t0 → t0 + 2000 ≤ s.ms → Completes (.shortBegins p) s fun t =>
        OnlyPort p s t ∧ (t.port p).tim.short = none ∧ ∃ tim, t.port p =
          { s.port p with
            feed := { (s.port p).feed with short := true }
            rep := { (s.port p).rep with status := (s.port p).rep.status ||| StatusBit.short.mask }
            tim := tim })
      ∧ ((s.port p).tim.shortEnd = some t0 → t0 + 2000 ≤ s.ms → Completes (.shortEnds p) s fun t =>
        OnlyPort p s t ∧ (t.port p).tim.shortEnd = none ∧ ∃ tim, t.port p =
          { s.port p with feed := { (s.port p).feed with short := false }, tim := tim }))
  ∧ (∀ (s : State) (p : Port) (ma : Int) (up : Bool), s.fitted p = true →
      ((s.port p).feed.refreshed ≠ s.mc.clock → Completes (.lineCurrentRefresh p up) s fun t =>
        OnlyPort p s t ∧ ∃ k : Int, 10 * k < (s.port p).pin.current + 10 ∧ (s.port p).pin.current < 10 * k + 10
          ∧ t.port p = { s.port p with
              feed := { (s.port p).feed with measured := BitVec.ofInt 16 k, refreshed := s.mc.clock } })
      ∧ ((s.port p).feed.refreshed = s.mc.clock → exec (.lineCurrentRefresh p up) s = .next s)
      ∧ (Completes (.lineCurrentChange p ma) s fun t =>
        OnlyPort p s t
          ∧ (∃ tim, t.port p = { s.port p with pin := { (s.port p).pin with current := ma }, tim := tim })
          ∧ (t.port p).tim.absence =
            (if (s.port p).hasBias = true ∧ (s.port p).term.state ≠ .absent ∧ ma < 2 then
              some ((s.port p).tim.absence.getD s.ms) else none)
          ∧ (t.port p).tim.presence =
            (if (s.port p).hasBias = true ∧ (s.port p).term.state = .absent ∧ 2 ≤ ma then
              some ((s.port p).tim.presence.getD s.ms) else none)
          ∧ (t.port p).tim.short =
            (if (s.port p).biasAlone = true ∧ (s.port p).feed.short = false ∧ 60 ≤ ma then
              some ((s.port p).tim.short.getD s.ms) else none)
          ∧ (t.port p).tim.shortEnd =
            (if (s.port p).biasAlone = true ∧ (s.port p).feed.short = true ∧ ma < 60 then
              some ((s.port p).tim.shortEnd.getD s.ms) else none)
          ∧ (t.port p).tim.overcur =
            (if (s.port p).fullClosed = true ∧ 10 * ((s.port p).setup.limit : Int) < ma then
              some ((s.port p).tim.overcur.getD s.ms) else none)))
  ∧ (∀ (s : State) (p : Port) (t0 : Ms), s.fitted p = true →
      (Completes (.demandSignalPresent p) s fun t =>
        OnlyPort p s t
          ∧ (∃ tim, t.port p = { s.port p with pin := { (s.port p).pin with signal := true }, tim := tim })
          ∧ (t.port p).tim.qual =
            (if (s.port p).dem.state = .idle ∧ (s.port p).lineOpen = true then
              some ((s.port p).tim.qual.getD s.ms) else none)
          ∧ (t.port p).tim.resume =
            (if (s.port p).dem.state = .ending then some ((s.port p).tim.resume.getD s.ms) else none)
          ∧ (t.port p).tim.onHook = none)
      ∧ (Completes (.demandSignalLost p) s fun t =>
        OnlyPort p s t
          ∧ (∃ tim, t.port p =
              { s.port p with
                pin := { (s.port p).pin with signal := false }
                dem := { (s.port p).dem with
                  state := if (s.port p).dem.state = .active then .ending else (s.port p).dem.state }
                tim := tim })
          ∧ (t.port p).tim.qual = none ∧ (t.port p).tim.resume = none
          ∧ (t.port p).tim.onHook =
            (if (s.port p).dem.state = .idle then none else some ((s.port p).tim.onHook.getD s.ms)))
      ∧ ((s.port p).tim.resume = some t0 → t0 + 100 ≤ s.ms → Completes (.demandResumed p) s fun t =>
        OnlyPort p s t
          ∧ ∃ tim, t.port p = { s.port p with dem := { (s.port p).dem with state := .active }, tim := tim }))

/-! ### A port's timers -/

/-- The timers that move one field (R23, R45, R46, R51, R131): an old trip leaves the history, the test cooldown goes, a
duty phase or frame ends, and a transaction passes from a send to its window and from the first window to the repeat.
The trip cooling and the restart off-time run out: the target is evaluated, and each PORT RESTART that waited for the
off-time completes OK (R15, R52, R162). -/
def Obligations.PlainTimersRunOut : Prop :=
  (∀ (s : State) (p : Port), s.fitted p = true →
    (∀ h, (s.port p).feed.latch = false → h ∈ (s.port p).feed.trips → h + 600 ≤ s.mc.clock →
      Completes (.tripHistoryDrop p) s fun t =>
        OnlyPort p s t ∧ t.port p = { s.port p with
          feed := { (s.port p).feed with
            trips := (s.port p).feed.trips.filter fun h => decide (s.mc.clock < h + 600) } })
    ∧ (∀ c, (s.port p).bat.cooldown = some c → c ≤ s.mc.clock → Completes (.testCooldownEnd p) s fun t =>
        OnlyPort p s t ∧ t.port p = { s.port p with bat := { (s.port p).bat with cooldown := none } })
    ∧ (∀ d, (s.port p).feed.state = .duty → (s.port p).feed.duty = some d → d.on = true →
        d.start + 15 * d.eighths ≤ s.mc.clock → Completes (.dutyOnPhaseEnd p) s fun t =>
          OnlyPort p s t ∧ ∃ tim, t.port p = { s.port p with
            feed := { (s.port p).feed with duty := some { d with on := false } }, tim := tim })
    ∧ (∀ d e k, (s.port p).feed.state = .duty → (s.port p).feed.duty = some d → (s.port p).feed.target = .duty e k →
        d.start + 120 ≤ s.mc.clock → Completes (.dutyFrameEnd p) s fun t =>
          OnlyPort p s t ∧ ∃ tim, t.port p = { s.port p with
            feed := { (s.port p).feed with duty := some { on := true, start := d.start + 120, eighths := e } }
            tim := tim })
    ∧ (∀ f, (s.port p).line.flight = some f →
        (f.phase = .firstSend → f.start + 200 ≤ s.ms → Completes (.requestSendEnd p) s fun t =>
          OnlyPort p s t ∧ t.port p = { s.port p with
            line := { (s.port p).line with flight := some { f with phase := .firstWindow } } })
        ∧ (f.phase = .repeatSend → f.start + 900 ≤ s.ms → Completes (.requestSendEnd p) s fun t =>
          OnlyPort p s t ∧ t.port p = { s.port p with
            line := { (s.port p).line with flight := some { f with phase := .repeatWindow } } })
        ∧ (f.phase = .firstWindow → f.start + 700 ≤ s.ms → Completes (.firstWindowClose p) s fun t =>
          OnlyPort p s t ∧ t.port p = { s.port p with
            line := { (s.port p).line with flight := some { f with phase := .repeatSend } } })))
  ∧ (∀ (s : State) (p : Port) (t0 : Ms), s.fitted p = true → (s.port p).feed.started = true →
    ((s.port p).feed.offTime = none → (s.port p).feed.cooling = some t0 → t0 + 30000 ≤ s.ms →
      Completes (.tripCoolingEnd p) s fun t =>
        (t.port p).feed.cooling = none ∧ TargetCurrent t p)
    ∧ ((s.port p).feed.offTime = some t0 → t0 + 10000 ≤ s.ms → Completes (.restartOffTimeEnd p) s fun t =>
        (t.port p).feed.offTime = none ∧ (t.port p).sup.waiting = [] ∧ TargetCurrent t p
          ∧ ∀ u, u ∈ (s.port p).sup.waiting → HoldsSlot s u → Answered s t u .ok
            (Memory.le16 (s.port p).sup.restarts ++ optTime (s.port p).sup.lastRestart))
    ∧ ((s.port p).feed.offTime = some t0 → t0 + 10000 ≤ s.ms → (s.port p).feed.state = .cycling →
        (s.port p).feed.target = .cycling → (s.port p).feed.coldDone = true → (s.port p).term.awakeDue = false →
        { s.port p with feed := { (s.port p).feed with offTime := none } }.decision = .bias →
        Completes (.restartOffTimeEnd p) s fun t =>
          (t.port p).feed.state = .bias ∧ (t.port p).sup.pollDue = some (s.mc.clock + 20)))

/-- A trip (R50): the grant is released, the frame ended, the time appended to what is left of the history, and the
port is TRIPPED and cooling after one or two entries, and latched in FAULT after the third. (An entry of the trip's own
second is left out, so that the history holds none twice, R51: the model's choice, log 32.) -/
def Obligations.PortTrips : Prop :=
  ∀ (s : State) (p : Port) (t0 : Ms) (g : Grant), Steered s p → (s.port p).fullClosed = true →
    (s.port p).tim.overcur = some t0 → t0 + 50 ≤ s.ms → s.bu.grantOf p = some g →
    (s.port p).feed.latch = false → (s.port p).feed.cooling = none →
    ((∃ k, (s.port p).feed.target = .full k) ∨ ∃ e k, (s.port p).feed.target = .duty e k) →
    (((s.port p).feed.trips.filter fun h => decide (s.mc.clock < h + 600 ∧ h ≠ s.mc.clock)).length < 2 →
      Completes (.trip p) s fun t =>
        (t.port p).feed.state = .tripped ∧ (t.port p).feed.target = .tripped
          ∧ (t.port p).feed.cooling = some s.ms ∧ (t.port p).feed.latch = false ∧ (t.port p).feed.duty = none
          ∧ (t.port p).feed.trips =
            ((s.port p).feed.trips.filter fun h => decide (s.mc.clock < h + 600 ∧ h ≠ s.mc.clock)) ++ [s.mc.clock]
          ∧ Marked t p .tripped ∧ (t.port p).dem = (s.port p).dem
          ∧ t.bu = { s.bu.setPlace p none with due := true }
          ∧ ∀ f, (s.port p).line.flight = some f → (s.port p).lineOpen = true →
              (t.port p).line.flight = some f ∧ (t.port p).line.charge = some 0)
    ∧ (2 ≤ ((s.port p).feed.trips.filter fun h => decide (s.mc.clock < h + 600 ∧ h ≠ s.mc.clock)).length →
      Completes (.trip p) s fun t =>
        (t.port p).feed.state = .fault ∧ (t.port p).feed.target = .fault
          ∧ (t.port p).feed.cooling = none ∧ (t.port p).feed.latch = true ∧ (t.port p).feed.duty = none
          ∧ (t.port p).feed.trips =
            ((s.port p).feed.trips.filter fun h => decide (s.mc.clock < h + 600 ∧ h ≠ s.mc.clock)) ++ [s.mc.clock]
          ∧ Marked t p .fault ∧ (t.port p).dem = (s.port p).dem
          ∧ t.bu = { s.bu.setPlace p none with due := true })

/-- A poll that falls due on a line with a request in flight joins the QUERY on the line, takes a free general place, or
is skipped until one interval on, and on an idle line its QUERY begins (R9, R30). The awake-until time reached: its
SLEEP takes a free general place and the time goes, while the demand is IDLE; while a demand stands the duty is held
(R16, R133). -/
def Obligations.PollAndAwakeUntilFallDue : Prop :=
  (∀ (s : State) (p : Port) (d : Time), s.fitted p = true → (s.port p).sup.pollDue = some d → d ≤ s.mc.clock →
      (s.port p).pollSuspended = false → (s.port p).term.awakeDue = false →
      (∀ f, (s.port p).line.flight = some f → (s.port p).line.hasQuery = true → Completes (.pollDue p) s fun t =>
          (t.port p).sup.pollDue = none
            ∧ (t.port p).line.general.length = (s.port p).line.general.length
            ∧ (t.port p).line.owners.count .poll = (s.port p).line.owners.count .poll + 1)
      ∧ (∀ f, (s.port p).line.flight = some f → (s.port p).line.hasQuery = false →
          (s.port p).line.general.length < 4 → Completes (.pollDue p) s fun t =>
            (t.port p).sup.pollDue = none
              ∧ (t.port p).line = { (s.port p).line with
                  general := (s.port p).line.general ++ [{ body := .query, owners := [.poll] }] })
      ∧ (∀ f, (s.port p).line.flight = some f → (s.port p).line.hasQuery = false →
          4 ≤ (s.port p).line.general.length → Completes (.pollDue p) s fun t =>
            (t.port p).sup.pollDue = some (s.mc.clock + (s.port p).setup.pollInterval)
              ∧ (t.port p).line = (s.port p).line)
      ∧ ((s.port p).line.flight = none → (s.port p).line.halt = none → (s.port p).line.charge = none →
          (s.port p).line.general = [] → Completes (.pollDue p) s fun t =>
            (t.port p).sup.pollDue = none
              ∧ (t.port p).line.flight =
                some { req := { body := .query, owners := [.poll] }, phase := .firstSend, start := s.ms }))
  ∧ (∀ (s : State) (p : Port) (a : Time) (f : Flight), s.fitted p = true → (s.port p).term.awakeUntil = some a →
      a ≤ s.mc.clock → (s.port p).term.awakeDue = false → (s.port p).line.flight = some f →
      ((s.port p).dem.state = .idle → (s.port p).lineOpen = true → (s.port p).line.general.length < 4 →
        Completes (.awakeUntilReached p) s fun t =>
          (t.port p).term.awakeUntil = none ∧ (t.port p).term.awakeDue = false
            ∧ (t.port p).line.general =
              (s.port p).line.general ++ [{ body := .sleep, owners := (s.port p).sleepOwners }]
            ∧ ∀ i, (s.port p).line.item = some i → i.phase = .window →
                (t.port p).line.item = some { i with phase := .closing })
      ∧ ((s.port p).dem.state ≠ .idle → Completes (.awakeUntilReached p) s fun t =>
          (t.port p).term.awakeUntil = some a ∧ (t.port p).term.awakeDue = true
            ∧ (t.port p).line = (s.port p).line))

/-- The result window runs out (R5, R129): the terminal leaves TESTING, the test hold is lifted, NO_RESULT goes to the
engine, and the item's closing HALT begins on an idle line. A RESULT in the window (R24, R130, R131): the item passes
when the voltage fell by no more than its sag and ended at its minimum or above, and the health record and the cooldown
are written. (That the result and the end go as two reports, result first, is the model's choice, log 34, where R117
lets them come in one; that the HALT begins ahead of what already waits is R31, R132 and log 13.) -/
def Obligations.ResultWindowOutcomes : Prop :=
  (∀ (s : State) (p : Port) (w : Stamp) (i : Item), Steered s p → (s.port p).line.window = some w → w.ms ≤ s.ms →
      (s.port p).line.item = some i → (s.port p).lineOpen = true → (s.port p).line.flight = none →
      (s.port p).line.halt = none → Completes (.resultWindowExpiry p) s fun t =>
        (t.port p).line.window = none ∧ (t.port p).feed.hold = false ∧ (t.port p).term.state ≠ .testing
          ∧ (t.port p).line.item = some { i with phase := .ending }
          ∧ (t.port p).line.flight =
            some { req := { body := .halt, owners := [.item i.num] }, phase := .firstSend, start := s.ms }
          ∧ (t.port p).box.out = (s.port p).box.out ++ [.result i.num .noResult]
          ∧ TargetCurrent t p)
  ∧ (∀ (s : State) (p : Port) (start min final : Half) (charge : Byte) (w : Stamp) (i : Item) (l d sag low : Nat),
      Steered s p → charge.toNat ≤ 100 → (s.port p).lineOpen = true → (s.port p).line.window = some w → s.ms ≤ w.ms →
      (s.port p).line.item = some i → i.work = .test l d sag low →
      Completes (.resultArrival p true start min final charge) s fun t =>
        (t.port p).line.window = none ∧ (t.port p).line.item = none ∧ (t.port p).feed.hold = false
          ∧ (t.port p).term.lastAnswer = some s.mc.clock ∧ (t.port p).sup.silence = 0
          ∧ (t.port p).term.state ≠ .testing ∧ Marked t p .testDone
          ∧ (t.port p).bat = {
              last := some { time := s.mc.clock
                             pass := decide ((start.toNat : Int) - min.toNat ≤ sag) && decide (low ≤ final.toNat)
                             start := start, min := min, final := final, charge := charge.toNat }
              cooldown := some (s.mc.clock + 1800) }
          ∧ (t.port p).box.out = (s.port p).box.out ++
              [.result i.num (if (start.toNat : Int) - min.toNat ≤ sag ∧ low ≤ final.toNat then .passed else .failed),
               .ended i.num]
          ∧ TargetCurrent t p)

/-- A demand signal of 100 ms makes the demand ACTIVE (R34); a lifeline-eligible port asks for current as LIFELINE
(R37), and a FEED grant or request of its own becomes LIFELINE in place, the request at the place its kind and its old
arrival give it (R41, R65, R67). A wake item runs on (R80), and a test is aborted by how far it has gone (R81): one in
HOLDING ends, one whose TEST is in flight lets go of it and hands over its HALT, one in RUNNING closes its window and
hands over its HALT, and one in ENDING stands. Two seconds on-hook end the demand (R35): where the policy feeds, the
LIFELINE grant or request is FEED again (R41, R84); a silence restart that the demand held back is taken, if its count
still calls for it (R13, R14). (That an item's result and end go as two reports, result first, is the model's choice,
log 34; that on a free line the HALT begins in the event, log 13.) -/
def Obligations.DemandQualifiesAndEnds : Prop :=
  (∀ (s : State) (p : Port) (t0 : Ms), Steered s p → (s.port p).tim.qual = some t0 → t0 + 100 ≤ s.ms →
      (Completes (.demandQualified p) s fun t =>
        (t.port p).dem = { state := .active, start := some s.mc.clock, count := min ((s.port p).dem.count + 1) 255 }
          ∧ Marked t p .demand ∧ TargetCurrent t p)
      ∧ (s.bu.grantOf p = none → s.bu.requestOf p = none → (s.port p).feed.latch = false →
          (s.port p).feed.cooling = none → (s.port p).term.state ≠ .absent → (s.port p).got.mode ≠ .mains →
          (s.port p).got.cutoff = false → (s.port p).feed.target ≠ .full .lifeline →
          Completes (.demandQualified p) s fun t =>
            (t.port p).feed.state = .waiting ∧ (t.port p).feed.target = .full .lifeline
              ∧ t.bu.requestOf p = some { port := p, amount := (s.port p).setup.limit, kind := .lifeline,
                                          tier := (s.port p).setup.tier, arrival := s.bu.arrivals + 1 })
      ∧ ((s.port p).feed.latch = false → (s.port p).feed.cooling = none → (s.port p).term.state ≠ .absent →
          ((s.port p).got.mode ≠ .mains ∨ ∃ f, (s.port p).term.flags = some f ∧ f.onBattery = true) →
          (s.port p).got.cutoff = false → (s.port p).feed.target ≠ .full .lifeline → (s.port p).line.item = none →
          (∀ g f, s.bu.grantOf p = some g → g.kind = .feed →
              ((s.port p).feed.state = .full ∨ (s.port p).feed.state = .duty) →
              (s.port p).line.flight = some f → Completes (.demandQualified p) s fun t =>
                t.bu = { s.bu.setPlace p (some { g with kind := .lifeline }) with due := true }
                  ∧ (t.port p).feed.state = .full ∧ (t.port p).feed.target = .full .lifeline
                  ∧ (t.port p).feed.duty = none ∧ (t.port p).line = (s.port p).line)
          ∧ (∀ q, s.bu.grantOf p = none → s.bu.requestOf p = some q → q.kind = .feed →
              Completes (.demandQualified p) s fun t =>
                t.bu.requestOf p = some { q with kind := .lifeline }
                  ∧ Placed { q with kind := .lifeline } (s.bu.without p) t.bu.queue ∧ t.bu.due = true
                  ∧ t.bu.arrivals = s.bu.arrivals ∧ (t.port p).feed.state = (s.port p).feed.state
                  ∧ (t.port p).feed.target = .full .lifeline))
      ∧ (∀ i a b c d, (s.port p).line.item = some i → i.work = .test a b c d → i.phase = .holding →
          Completes (.demandQualified p) s fun t =>
            (t.port p).line.item = none ∧ (t.port p).feed.hold = false
              ∧ (t.port p).box.out = (s.port p).box.out ++ [.result i.num .abortedDemand, .ended i.num])
      ∧ (∀ i m f, (s.port p).line.item = some i → i.work = .wake m → (s.port p).line.flight = some f →
          Completes (.demandQualified p) s fun t =>
            (t.port p).line.item = some i ∧ (t.port p).line.flight = some f
              ∧ (t.port p).box.out = (s.port p).box.out)
      ∧ (∀ i a b c d f, (s.port p).line.item = some i → i.work = .test a b c d → (s.port p).line.flight = some f →
          (i.phase = .requested → (s.port p).lineOpen = true → f.req.body ≠ .halt → (s.port p).line.halt = none →
            Completes (.demandQualified p) s fun t =>
              (t.port p).line.item = some { i with phase := .ending } ∧ (t.port p).feed.hold = false
                ∧ (t.port p).line.flight = some { f with req := f.req.without (.item i.num) }
                ∧ (t.port p).line.halt = some [.item i.num]
                ∧ (t.port p).box.out = (s.port p).box.out ++ [.result i.num .abortedDemand])
          ∧ (i.phase = .running → (s.port p).lineOpen = true → f.req.body ≠ .halt → (s.port p).line.halt = none →
            Completes (.demandQualified p) s fun t =>
              (t.port p).line.item = some { i with phase := .ending } ∧ (t.port p).feed.hold = false
                ∧ (t.port p).line.window = none ∧ (t.port p).line.flight = some f
                ∧ (t.port p).line.halt = some [.item i.num]
                ∧ (t.port p).box.out = (s.port p).box.out ++ [.result i.num .abortedDemand])
          ∧ (i.phase = .ending → Completes (.demandQualified p) s fun t =>
              (t.port p).line.item = some i ∧ (t.port p).line.flight = some f
                ∧ (t.port p).line.halt = (s.port p).line.halt ∧ (t.port p).box.out = (s.port p).box.out))
      ∧ (∀ i a b c d, (s.port p).line.item = some i → i.work = .test a b c d → i.phase = .running →
          (s.port p).lineOpen = true → (s.port p).line.flight = none → (s.port p).line.halt = none →
          Completes (.demandQualified p) s fun t =>
            (t.port p).line.item = some { i with phase := .ending } ∧ (t.port p).feed.hold = false
              ∧ (t.port p).line.window = none ∧ (t.port p).line.halt = none
              ∧ (t.port p).line.flight =
                some { req := { body := .halt, owners := [.item i.num] }, phase := .firstSend, start := s.ms }
              ∧ (t.port p).box.out = (s.port p).box.out ++ [.result i.num .abortedDemand]))
  ∧ (∀ (s : State) (p : Port) (t0 : Ms), Steered s p → (s.port p).tim.onHook = some t0 → t0 + 2000 ≤ s.ms →
      (Completes (.demandEnded p) s fun t =>
        (t.port p).dem = { (s.port p).dem with state := .idle } ∧ Marked t p .demandEnded)
      ∧ ((s.port p).sup.deferred = false → Completes (.demandEnded p) s fun t => TargetCurrent t p)
      ∧ ((s.port p).sup.deferred = false → (s.port p).feed.target = .full .lifeline →
          ∀ d, d = { s.port p with dem := { (s.port p).dem with state := .idle } }.decision →
          (∀ g, s.bu.grantOf p = some g → g.kind = .lifeline → (s.port p).feed.state = .full →
            (d = .full .feed → Completes (.demandEnded p) s fun t =>
              t.bu = { s.bu.setPlace p (some { g with kind := .feed }) with due := true }
                ∧ (t.port p).feed.state = .full ∧ (t.port p).feed.target = .full .feed)
            ∧ (∀ e, d = .duty e .feed → Completes (.demandEnded p) s fun t =>
              t.bu = { s.bu.setPlace p (some { g with kind := .feed }) with due := true }
                ∧ (t.port p).feed.state = .duty ∧ (t.port p).feed.target = .duty e .feed
                ∧ (t.port p).feed.duty = some { on := true, start := s.mc.clock, eighths := e }))
          ∧ (∀ q, s.bu.grantOf p = none → s.bu.requestOf p = some q → q.kind = .lifeline →
              (d = .full .feed ∨ ∃ e, d = .duty e .feed) → Completes (.demandEnded p) s fun t =>
                t.bu.requestOf p = some { q with kind := .feed }
                  ∧ Placed { q with kind := .feed } (s.bu.without p) t.bu.queue ∧ t.bu.due = true
                  ∧ t.bu.arrivals = s.bu.arrivals ∧ (t.port p).feed.state = (s.port p).feed.state
                  ∧ (t.port p).feed.target = d))
      ∧ ((s.port p).sup.deferred = true → 1 ≤ (s.port p).setup.threshold →
          (s.port p).setup.threshold ≤ (s.port p).sup.silence → (s.port p).line.item = none →
          (s.port p).feed.latch = false → Completes (.demandEnded p) s fun t =>
            (t.port p).feed.state = .cycling ∧ (t.port p).feed.offTime = some s.ms ∧ (t.port p).sup.cause = .silence
              ∧ (t.port p).sup.lastRestart = some s.mc.clock ∧ Marked t p .restarted))

/-- No answer in either window (R12, R13, R26, R160): the silence count rises, the terminal is SILENT, a host task ends
NO_ANSWER, a poll falls due one interval on, and a count that reaches the threshold restarts an idle port. -/
def Obligations.SilenceEndsRequest : Prop :=
  ∀ (s : State) (p : Port) (f : Flight), Steered s p → (s.port p).line.flight = some f →
    f.phase = .repeatWindow → f.start + 1400 ≤ s.ms →
    (((s.port p).setup.threshold = 0 ∨ min ((s.port p).sup.silence + 1) 7 < (s.port p).setup.threshold) →
      Completes (.repeatWindowClose p) s fun t =>
        (t.port p).sup.silence = min ((s.port p).sup.silence + 1) 7 ∧ (t.port p).term.state = .silent
          ∧ ((s.port p).term.state ≠ .silent → Marked t p .silent)
          ∧ TargetCurrent t p
          ∧ (∀ u, Owner.task u ∈ f.req.owners → HoldsSlot s u → Answered s t u .noAnswer [])
          ∧ ((s.port p).hasBias = true → (s.port p).term.awakeDue = false → Owner.poll ∈ f.req.owners →
              (t.port p).sup.pollDue = some (s.mc.clock + (s.port p).setup.pollInterval)))
    ∧ (1 ≤ (s.port p).setup.threshold → (s.port p).setup.threshold ≤ min ((s.port p).sup.silence + 1) 7 →
        (s.port p).dem.state = .idle → (s.port p).line.item = none → (s.port p).feed.latch = false →
        Completes (.repeatWindowClose p) s fun t =>
          (t.port p).feed.state = .cycling ∧ (t.port p).feed.offTime = some s.ms ∧ (t.port p).sup.cause = .silence
            ∧ (t.port p).sup.silence = 0 ∧ (t.port p).term.state = .unknown ∧ Marked t p .restarted
            ∧ ((s.port p).term.state ≠ .silent → Marked t p .silent)
            ∧ (t.port p).line = { item := none, flight := none, halt := none, charge := none, general := [],
                                  window := none }
            ∧ (∀ u, Owner.task u ∈ f.req.owners → HoldsSlot s u → Answered s t u .noAnswer []))

/-! ### The answer frames -/

/-- A STATUS that answers a QUERY (R4, R25, R26, R160). -/
def Obligations.StatusAccepted : Prop :=
  ∀ (s : State) (p : Port) (charge : Byte) (volts : Half) (flags : StatusFlags) (f : Flight), Steered s p →
    charge.toNat ≤ 100 → (s.port p).lineOpen = true → (s.port p).line.flight = some f → f.req.body = .query →
    f.windowOpen s.ms = true → Completes (.statusArrival p true charge volts flags) s fun t =>
      (t.port p).term.flags = some flags ∧ (t.port p).term.charge = charge.toNat ∧ (t.port p).term.volts = volts
        ∧ (t.port p).term.lastAnswer = some s.mc.clock ∧ (t.port p).sup.silence = 0
        ∧ (t.port p).term.state = (if flags.awake then .awake else .asleep)
        ∧ ((s.port p).term.state = .silent ∨ (s.port p).term.state = .unknown → Marked t p .answering)
        ∧ (flags.onBattery = true → (s.port p).onBattery = false → Marked t p .onBattery)
        ∧ (flags.onBattery = false → (s.port p).onBattery = true → Marked t p .offBattery)
        ∧ TargetCurrent t p
        ∧ (∀ u, Owner.task u ∈ f.req.owners → HoldsSlot s u → Answered s t u .ok
            ([charge, Memory.byte (flagsByte flags)] ++ Memory.le16 volts.toNat))
        ∧ ((s.port p).term.awakeDue = false → Owner.poll ∈ f.req.owners →
            (t.port p).sup.pollDue = some (s.mc.clock + (s.port p).setup.pollInterval))

/-- An ACK that answers the request it echoes (R4, R5, R16, R25, R129, R133, R160): a WAKE makes the terminal AWAKE with
its awake-until time, a SLEEP makes it ASLEEP, a TEST makes it TESTING and opens the result window of its item, and a
CHARGE or a HALT leaves it as it last reported. A WAKE that has lost its owner makes the terminal AWAKE with the part
clock for its awake-until time (R134): its SLEEP is held while a demand stands, and begins at once on an idle line. -/
def Obligations.AckAccepted : Prop :=
  ∀ (s : State) (p : Port) (f : Flight), Steered s p → (s.port p).lineOpen = true →
    (s.port p).line.flight = some f → f.windowOpen s.ms = true → f.req.body ≠ .query →
    (Completes (.ackArrival p true (some f.req.body.kind)) s fun t =>
      (t.port p).term.lastAnswer = some s.mc.clock ∧ (t.port p).sup.silence = 0
        ∧ ∀ u, Owner.task u ∈ f.req.owners → HoldsSlot s u → Answered s t u .ok
            (match f.req.body with
              | .wake m => Memory.le32 (s.mc.clock + 60 * m)
              | _ => []))
    ∧ (∀ m, f.req.body = .wake m → f.req.owners ≠ [] → (∀ n, Owner.item n ∉ f.req.owners) →
        Completes (.ackArrival p true (some .wake)) s fun t =>
          (t.port p).term.state = .awake ∧ (t.port p).term.awakeUntil = some (s.mc.clock + 60 * m)
            ∧ (t.port p).term.awakeDue = false)
    ∧ (∀ m i, f.req.body = .wake m → f.req.owners = [.item i.num] → (s.port p).line.item = some i →
        Completes (.ackArrival p true (some .wake)) s fun t =>
          (t.port p).term.awakeUntil = some (s.mc.clock + 60 * m)
            ∧ (t.port p).line.item = some { i with phase := .window })
    ∧ (∀ m, f.req.body = .wake m → f.req.owners = [] →
        ((s.port p).dem.state ≠ .idle → Completes (.ackArrival p true (some .wake)) s fun t =>
          (t.port p).term.state = .awake ∧ (t.port p).term.awakeUntil = some s.mc.clock
            ∧ (t.port p).term.awakeDue = true)
        ∧ ((s.port p).dem.state = .idle → (s.port p).line.item = none → (s.port p).line.halt = none →
            (s.port p).line.charge = none → (s.port p).line.general = [] → s.bu.grantOf p = none →
            (s.port p).feed.state ≠ .full → (s.port p).feed.state ≠ .duty →
            Completes (.ackArrival p true (some .wake)) s fun t =>
              (t.port p).term.state = .awake ∧ (t.port p).term.awakeUntil = none ∧ (t.port p).term.awakeDue = false
                ∧ (t.port p).line.flight =
                  some { req := { body := .sleep, owners := [.awakeUntil] }, phase := .firstSend, start := s.ms }))
    ∧ (f.req.body = .sleep → (∀ n, Owner.item n ∉ f.req.owners) →
        Completes (.ackArrival p true (some .sleep)) s fun t => (t.port p).term.state = .asleep)
    ∧ (∀ i, f.req.body = .sleep → Owner.item i.num ∈ f.req.owners → (s.port p).line.item = some i →
        Completes (.ackArrival p true (some .sleep)) s fun t =>
          (t.port p).line.item = none ∧ Report.result i.num .woke ∈ (t.port p).box.out
            ∧ Report.ended i.num ∈ (t.port p).box.out)
    ∧ (∀ l d i, f.req.body = .test l d → f.req.owners = [.item i.num] → (s.port p).line.item = some i →
        Completes (.ackArrival p true (some .test)) s fun t =>
          (t.port p).term.state = .testing ∧ (t.port p).line.item = some { i with phase := .running }
            ∧ (t.port p).line.window = some { ms := s.ms + 1000 * (d + 5), sec := s.mc.clock + (d + 5) })
    ∧ (∀ c, f.req.body = .charge c → Completes (.ackArrival p true (some .charge)) s fun t =>
        (t.port p).term.state = (if (s.port p).awakeFlag then .awake else .asleep))
    ∧ (∀ i, f.req.body = .halt → f.req.owners = [.item i.num] → (s.port p).line.item = some i →
        Completes (.ackArrival p true (some .halt)) s fun t =>
          (t.port p).line.item = none ∧ Report.ended i.num ∈ (t.port p).box.out)

/-- A REFUSE of a WAKE, a SLEEP or a TEST (R4, R25, R26, R129, R133, R160): the port record takes it, a host
task completes REFUSED with the reason, and an item ends. (That the item's result and end go as two reports, result
first, is the model's choice, log 34.) -/
def Obligations.RefuseAccepted : Prop :=
  ∀ (s : State) (p : Port) (f : Flight) (why : RefuseReason), Steered s p → (s.port p).lineOpen = true →
    (s.port p).line.flight = some f → f.windowOpen s.ms = true →
    (f.req.body.kind = .wake ∨ f.req.body.kind = .sleep ∨ f.req.body.kind = .test) →
    (Completes (.refuseArrival p true (some why)) s fun t =>
      (t.port p).term.lastAnswer = some s.mc.clock ∧ (t.port p).sup.silence = 0
        ∧ (t.port p).term.state = (if (s.port p).awakeFlag then .awake else .asleep)
        ∧ ∀ u, Owner.task u ∈ f.req.owners → HoldsSlot s u → Answered s t u .refused [Memory.byte (refuseCode why)])
    ∧ (∀ i, f.req.body.kind ≠ .sleep → f.req.owners = [.item i.num] → (s.port p).line.item = some i →
        Completes (.refuseArrival p true (some why)) s fun t =>
          (t.port p).line.item = none ∧ (t.port p).feed.hold = false
            ∧ (t.port p).box.out = (s.port p).box.out ++ [.result i.num .refused, .ended i.num])

/-! ### Items and tasks at a port -/

/-- The checks of a start claim, in their order (R127), and the answer (R127, R128): the skip code with no other change
of the item, or "started", with the item current, a test under the test hold, and its request in a general place. -/
def Obligations.StartClaimAnswered : Prop :=
  (∀ (r : PortRecord) (clock : Time) (w : Work),
      (r.term.state = .absent → r.startCheck clock w = some .skippedAbsent)
      ∧ (r.term.state ≠ .absent →
          (r.feed.state = .fault ∨ r.feed.state = .cycling ∨ r.feed.state = .tripped →
            r.startCheck clock w = some .skippedFault)
          ∧ (r.feed.state ≠ .fault → r.feed.state ≠ .cycling → r.feed.state ≠ .tripped →
              (r.dem.state ≠ .idle → r.startCheck clock w = some .skippedDemand)
              ∧ (r.dem.state = .idle →
                  (r.term.state = .silent ∨ r.term.state = .unknown → r.startCheck clock w = some .skippedSilent)
                  ∧ (r.term.state ≠ .silent → r.term.state ≠ .unknown →
                      (∀ l d g e c, w = .test l d g e → r.bat.cooldown = some c → clock < c →
                        r.startCheck clock w = some .skippedRecent)
                      ∧ (∀ m, w = .wake m → r.shed = true → r.startCheck clock w = some .skippedShed)
                      ∧ ((∀ l d g e, w = .test l d g e → ∀ c, r.bat.cooldown = some c → c ≤ clock) →
                          (∀ m, w = .wake m → r.shed = false) →
                          (r.got.mode = .hold ∨ r.line.item ≠ none ∨ r.term.state = .testing
                              ∨ r.line.hasHostRequest = true ∨ r.line.placeAvailable = false →
                            r.startCheck clock w = some .skippedBusy)
                          ∧ (r.got.mode ≠ .hold → r.line.item = none → r.term.state ≠ .testing →
                              r.line.hasHostRequest = false → r.line.placeAvailable = true →
                              r.startCheck clock w = none)))))))
  ∧ (∀ (s : State) (p : Port) (num : Word) (v : ViewNo) (w : Work) (rest : List ItemClaim) (f : Flight), Steered s p →
      (s.port p).box.items = .start num v w :: rest → (s.port p).line.flight = some f →
      (s.port p).term.awakeDue = false →
      (∀ k, (s.port p).startCheck s.mc.clock w = some k → Completes (.portTakeStartClaim p) s fun t =>
        (t.port p).box.out = (s.port p).box.out ++ [.answer num (some k)] ∧ (t.port p).box.items = rest
          ∧ (t.port p).line = (s.port p).line ∧ (t.port p).feed = (s.port p).feed)
      ∧ (∀ l d g e, w = .test l d g e → (s.port p).startCheck s.mc.clock w = none →
          (s.port p).line.general.length < 4 → Completes (.portTakeStartClaim p) s fun t =>
            (t.port p).box.out = (s.port p).box.out ++ [.answer num none] ∧ (t.port p).box.items = rest
              ∧ (t.port p).line.item = some { num := num, view := v, work := w, phase := .holding }
              ∧ (t.port p).line.general =
                (s.port p).line.general ++ [{ body := .test l d, owners := [.item num] }]
              ∧ (t.port p).feed.hold = true ∧ TargetCurrent t p)
      ∧ (∀ m, w = .wake m → (s.port p).startCheck s.mc.clock w = none →
          (s.port p).line.general.length < 4 → Completes (.portTakeStartClaim p) s fun t =>
            (t.port p).box.out = (s.port p).box.out ++ [.answer num none] ∧ (t.port p).box.items = rest
              ∧ (t.port p).line.item = some { num := num, view := v, work := w, phase := .requested }
              ∧ (t.port p).line.general =
                (s.port p).line.general ++ [{ body := .wake m, owners := [.item num] }]
              ∧ (t.port p).feed = (s.port p).feed))

/-- An abort claim (R137): for another item it is dropped, and for the current one it is taken by kind and phase. A test
in HOLDING ends with the code at once; one in REQUESTED lets go of its TEST, which runs on, and hands over its HALT; one
in RUNNING closes its window and hands over its HALT; one in ENDING stands, with no result. A wake in REQUESTED lets go
of its WAKE and one in CLOSING of its SLEEP, and ends at once; one in its WINDOW ends at once, and its awake-until time
is now, so that its SLEEP is queued, or held while a demand stands (R16). (That an item's result and end go as two
reports, result first, is the model's choice, log 34; that on a free line the HALT begins in the event, log 13.) -/
def Obligations.AbortClaimTaken : Prop :=
  (∀ (s : State) (p : Port) (num : Word) (k : ResCode) (rest : List ItemClaim) (i : Item) (f : Flight), Steered s p →
    (s.port p).box.items = .abort num k :: rest → (s.port p).line.item = some i →
    (s.port p).line.flight = some f → (s.port p).term.awakeDue = false → (s.port p).sup.deferred = false →
    (i.num ≠ num → Completes (.portTakeAbortClaim p) s fun t =>
      (t.port p).box = { (s.port p).box with items := rest } ∧ (t.port p).line = (s.port p).line)
    ∧ (∀ a b c d, i.num = num → i.work = .test a b c d → i.phase = .holding →
        Completes (.portTakeAbortClaim p) s fun t =>
          (t.port p).line.item = none ∧ (t.port p).feed.hold = false
            ∧ Owner.item num ∉ (t.port p).line.owners
            ∧ (t.port p).box.out = (s.port p).box.out ++ [.result num k, .ended num] ∧ TargetCurrent t p)
    ∧ (∀ a b c d, i.num = num → i.work = .test a b c d → i.phase = .requested → (s.port p).lineOpen = true →
        f.req.body ≠ .halt → (s.port p).line.halt = none → Completes (.portTakeAbortClaim p) s fun t =>
          (t.port p).line.item = some { i with phase := .ending } ∧ (t.port p).feed.hold = false
            ∧ (t.port p).line.flight = some { f with req := f.req.without (.item num) }
            ∧ (t.port p).line.halt = some [.item num]
            ∧ (t.port p).box.out = (s.port p).box.out ++ [.result num k] ∧ TargetCurrent t p)
    ∧ (∀ a b c d, i.num = num → i.work = .test a b c d → i.phase = .running → (s.port p).lineOpen = true →
        f.req.body ≠ .halt → (s.port p).line.halt = none → Completes (.portTakeAbortClaim p) s fun t =>
          (t.port p).line.item = some { i with phase := .ending } ∧ (t.port p).line.window = none
            ∧ (t.port p).line.halt = some [.item num] ∧ (t.port p).feed.hold = false
            ∧ (t.port p).box.out = (s.port p).box.out ++ [.result num k] ∧ TargetCurrent t p)
    ∧ (∀ a b c d, i.num = num → i.work = .test a b c d → i.phase = .ending →
        Completes (.portTakeAbortClaim p) s fun t =>
          (t.port p).box = { (s.port p).box with items := rest } ∧ (t.port p).line = (s.port p).line
            ∧ (t.port p).feed = (s.port p).feed ∧ t.bu = s.bu)
    ∧ (∀ m, i.num = num → i.work = .wake m → (i.phase = .requested ∨ i.phase = .closing) →
        Completes (.portTakeAbortClaim p) s fun t =>
          (t.port p).line.item = none ∧ Owner.item num ∉ (t.port p).line.owners
            ∧ (t.port p).line.flight = some { f with req := f.req.without (.item num) }
            ∧ (t.port p).box.out = (s.port p).box.out ++ [.result num k, .ended num])
    ∧ (∀ m, i.num = num → i.work = .wake m → i.phase = .window → (s.port p).dem.state ≠ .idle →
        Completes (.portTakeAbortClaim p) s fun t =>
          (t.port p).line.item = none ∧ (t.port p).term.awakeUntil = some s.mc.clock
            ∧ (t.port p).term.awakeDue = true
            ∧ (t.port p).box.out = (s.port p).box.out ++ [.result num k, .ended num])
    ∧ (∀ m, i.num = num → i.work = .wake m → i.phase = .window → (s.port p).dem.state = .idle →
        (s.port p).lineOpen = true → (s.port p).line.general.length < 4 →
        Completes (.portTakeAbortClaim p) s fun t =>
          (t.port p).line.item = none ∧ (t.port p).term.awakeUntil = none ∧ (t.port p).term.awakeDue = false
            ∧ (t.port p).line.general =
              (s.port p).line.general ++ [{ body := .sleep, owners := [.awakeUntil] }]
            ∧ (t.port p).box.out = (s.port p).box.out ++ [.result num k, .ended num]))
  ∧ (∀ (s : State) (p : Port) (k : ResCode) (rest : List ItemClaim) (i : Item) (a b c d : Nat), Steered s p →
    (s.port p).box.items = .abort i.num k :: rest → (s.port p).line.item = some i → i.work = .test a b c d →
    i.phase = .running → (s.port p).lineOpen = true → (s.port p).line.flight = none → (s.port p).line.halt = none →
    (s.port p).sup.deferred = false → Completes (.portTakeAbortClaim p) s fun t =>
      (t.port p).line.item = some { i with phase := .ending } ∧ (t.port p).line.window = none
        ∧ (t.port p).line.halt = none ∧ (t.port p).feed.hold = false
        ∧ (t.port p).line.flight =
          some { req := { body := .halt, owners := [.item i.num] }, phase := .firstSend, start := s.ms }
        ∧ (t.port p).box.out = (s.port p).box.out ++ [.result i.num k] ∧ TargetCurrent t p)

/-- A CLEAR claim and a cancel at a port (R165, R166): the tasks on the line let go of its requests and complete CLEARED
or CANCELLED; a cancel that comes before its task's claim is kept, and any other is dropped. (That one before a PORT
RESTART claim is kept too, where R166 has it stay pending, is the model's choice, log 8. A HALT is never a host's, so
the HALT that may begin then is left out of account.) -/
def Obligations.ClearAndCancelAtPort : Prop :=
  ∀ (s : State) (p : Port), s.fitted p = true →
    (∀ rest, (s.port p).box.tasks = .clear :: rest → Completes (.portTakeClear p) s fun t =>
      (t.port p).box.tasks = rest
        ∧ (∀ q, q ∈ (t.port p).line.requests → q.body ≠ .halt → ∀ u, Owner.task u ∉ q.owners)
        ∧ ∀ u, Owner.task u ∈ (s.port p).line.owners → HoldsSlot s u → Answered s t u .cleared [])
    ∧ (∀ u rest, (s.port p).box.cancels = u :: rest → Completes (.portTakeCancel p) s fun t =>
      (t.port p).box.cancels = rest
        ∧ (Owner.task u ∈ (s.port p).line.owners →
            (∀ q, q ∈ (t.port p).line.requests → q.body ≠ .halt → Owner.task u ∉ q.owners)
              ∧ (HoldsSlot s u → Answered s t u .cancelled []))
        ∧ (Owner.task u ∉ (s.port p).line.owners →
            t.ex.slots = s.ex.slots
              ∧ (t.port p).box.kept =
                if (s.port p).box.tasks.any (fun c => c.ref == some u) then (s.port p).box.kept ++ [u]
                else (s.port p).box.kept))

/-- PORT POLL, PORT WAKE and PORT SLEEP at a port (R30, R82, R159, R166): cancelled before, in HOLD, under a demand,
beside an item, on a closed line, or with no general place for its request the task completes at once; otherwise its
request takes a free general place. A poll QUERY gives its place up to a WAKE or a SLEEP that finds all four taken, its
poll skipped and its censuses lost, and to a QUERY always, which takes its owners over (a census merged into it too: the
model's reading, log 11). (On a line with a request in flight, so that nothing else begins.) PORT RESTART (R14, R82,
R162): refused while a demand stands, with the latch set or the feed OFF; otherwise the restart begins and the task
waits for the off-time. (A cancel taken before the claim completes it CANCELLED, a PORT RESTART's too: the model's
choice, log 8.) -/
def Obligations.TasksTakenAtPort : Prop :=
  (∀ (s : State) (p : Port) (u : TaskRef) (m : Nat) (rest : List PortClaim), s.fitted p = true → HoldsSlot s u →
      ∀ claim c, (claim = .poll u ∧ c = Instr.portPoll p ∨ claim = .wake u m ∧ c = .portWake p
          ∨ claim = .sleep u ∧ c = .portSleep p) →
        (s.port p).box.tasks = claim :: rest → (s.port p).box.kept.contains u = false →
        (c = .portPoll p → (s.port p).got.mode ≠ .hold) → (c ≠ .portPoll p → (s.port p).dem.state = .idle) →
        (s.port p).line.item = none → (s.port p).lineOpen = false → Completes c s fun t =>
          Answered s t u .wrongState [] ∧ (t.port p).box.tasks = rest ∧ (t.port p).line = (s.port p).line)
  ∧ (∀ (s : State) (p : Port) (u : TaskRef) (m : Nat) (rest : List PortClaim) (f : Flight), s.fitted p = true →
      HoldsSlot s u → (s.port p).line.flight = some f → (s.port p).term.awakeDue = false →
      (∀ claim c b, (claim = .poll u ∧ c = Instr.portPoll p ∧ b = Body.query
            ∨ claim = .wake u m ∧ c = .portWake p ∧ b = .wake m ∨ claim = .sleep u ∧ c = .portSleep p ∧ b = .sleep) →
        (s.port p).box.tasks = claim :: rest →
        ((s.port p).box.kept.contains u = true → Completes c s fun t =>
          Answered s t u .cancelled [] ∧ (t.port p).box.tasks = rest ∧ (t.port p).line = (s.port p).line
            ∧ (t.port p).box.kept = (s.port p).box.kept.filter fun k => k != u)
        ∧ ((s.port p).box.kept.contains u = false →
            (c = .portPoll p → (s.port p).got.mode = .hold → Completes c s fun t =>
              Answered s t u .hold [] ∧ (t.port p).line = (s.port p).line)
            ∧ (c ≠ .portPoll p → (s.port p).dem.state ≠ .idle → Completes c s fun t =>
              Answered s t u .lifeline [] ∧ (t.port p).line = (s.port p).line)
            ∧ ((c = .portPoll p → (s.port p).got.mode ≠ .hold) → (c ≠ .portPoll p → (s.port p).dem.state = .idle) →
                ((s.port p).line.item ≠ none → Completes c s fun t =>
                  Answered s t u .busy [] ∧ (t.port p).line = (s.port p).line)
                ∧ ((s.port p).line.item = none → (s.port p).lineOpen = true →
                    (4 ≤ (s.port p).line.general.length → (s.port p).line.general.any Request.isPollQuery = false →
                      Completes c s fun t => Answered s t u .busy [] ∧ (t.port p).line = (s.port p).line)
                    ∧ ((s.port p).line.general.length < 4 →
                        (c = .portPoll p → (s.port p).line.general.any Request.isPollQuery = false) →
                        Completes c s fun t =>
                          (t.port p).box.tasks = rest
                            ∧ (t.port p).line = { (s.port p).line with
                                general := (s.port p).line.general ++ [{ body := b, owners := [.task u] }] }
                            ∧ (c = .portSleep p → (t.port p).term.awakeUntil = none))
                    ∧ (∀ pre old post, (s.port p).line.general = pre ++ old :: post →
                        pre.any Request.isPollQuery = false → old.isPollQuery = true →
                        (c ≠ .portPoll p → 4 ≤ (s.port p).line.general.length → Completes c s fun t =>
                          (t.port p).box.tasks = rest
                            ∧ (t.port p).line = { (s.port p).line with
                                general := pre ++ post ++ [{ body := b, owners := [.task u] }] }
                            ∧ (t.port p).sup.pollDue = some (s.mc.clock + (s.port p).setup.pollInterval)
                            ∧ (s.mc.census.state = .running →
                                t.mc.census.lost = s.mc.census.lost + old.owners.count .census)
                            ∧ (c = .portSleep p → (t.port p).term.awakeUntil = none))
                        ∧ (c = .portPoll p → (s.port p).line.general.length ≤ 4 → Completes c s fun t =>
                          (t.port p).box.tasks = rest
                            ∧ (t.port p).line = { (s.port p).line with
                                general := pre ++ post ++ [{ body := .query, owners := [.task u] ++ old.owners }] }
                            ∧ (t.port p).sup.pollDue = (s.port p).sup.pollDue ∧ t.mc = s.mc)))))))
  ∧ (∀ (s : State) (p : Port) (u : TaskRef) (rest : List PortClaim), s.fitted p = true → HoldsSlot s u →
      (s.port p).box.tasks = .restart u :: rest →
      ((s.port p).box.kept.contains u = true → Completes (.portRestart p) s fun t =>
        Answered s t u .cancelled [] ∧ (t.port p).feed = (s.port p).feed ∧ (t.port p).box.tasks = rest
          ∧ (t.port p).sup.waiting = (s.port p).sup.waiting
          ∧ (t.port p).box.kept = (s.port p).box.kept.filter fun k => k != u)
      ∧ ((s.port p).box.kept.contains u = false →
          ((s.port p).dem.state ≠ .idle → Completes (.portRestart p) s fun t =>
            Answered s t u .lifeline [] ∧ (t.port p).feed = (s.port p).feed)
          ∧ ((s.port p).dem.state = .idle → (s.port p).feed.latch = true ∨ (s.port p).feed.state = .off →
              Completes (.portRestart p) s fun t => Answered s t u .wrongState [] ∧ (t.port p).feed = (s.port p).feed)
          ∧ ((s.port p).dem.state = .idle → (s.port p).feed.latch = false → (s.port p).feed.state ≠ .off →
              Completes (.portRestart p) s fun t =>
                (t.port p).feed.state = .cycling ∧ (t.port p).feed.target = .cycling
                  ∧ (t.port p).feed.offTime = some s.ms ∧ (t.port p).sup.cause = .host
                  ∧ (t.port p).sup.restarts = min ((s.port p).sup.restarts + 1) 65535
                  ∧ (t.port p).sup.lastRestart = some s.mc.clock ∧ Marked t p .restarted
                  ∧ (t.port p).sup.waiting = (s.port p).sup.waiting ++ [u]
                  ∧ (t.port p).term.state = .unknown ∧ (t.port p).line.general = []
                  ∧ (∀ k, k ∈ tasksOf (s.port p).line.owners → HoldsSlot s k → Answered s t k .wrongState [])
                  ∧ t.bu.grantOf p = none)))

/-! ### The campaign engine -/

/-- The engine takes a CAMPAIGN claim (R105, R106, R122, R164): CANCELLED if its cancel came first, NO_ROOM when the
list is full, and otherwise a place in the list under the next arrival number and the lowest free view; in HOLD nothing
more follows. An idle engine starts a campaign it can run (R108, R110, R111, R115, R116): RUNNING in a new round, with
the lowest port of its set in flight, its item number the next, and the start claim in that port's box. -/
def Obligations.CampaignAcceptedAndStarted : Prop :=
  (∀ (s : State) (u : TaskRef) (plan : CampaignPlan) (rest : List EngineClaim), s.ce.claims = .campaign u plan :: rest →
      (s.ce.kept.contains u = true → HoldsSlot s u → Completes .campaign s fun t =>
        Answered s t u .cancelled [] ∧ t.ce = { s.ce with claims := rest, kept := s.ce.kept.filter fun k => k != u })
      ∧ (s.ce.kept.contains u = false → s.ce.room = false → HoldsSlot s u → Completes .campaign s fun t =>
        Answered s t u .noRoom [] ∧ t.ce = { s.ce with claims := rest })
      ∧ (∀ v, s.ce.kept.contains u = false → s.ce.room = true → s.ce.freeView = some v → s.ce.active = none →
          s.ce.mode = .hold → Completes .campaign s fun t =>
            t.ce = { s.ce with
                claims := rest
                arrivals := s.ce.arrivals + 1
                waiting := placeCampaign
                  (newCampaign u { plan with ports := fittedSet s.mc.fit plan.ports } (s.ce.arrivals + 1) v)
                  s.ce.waiting }
              ∧ t.ex.slots = s.ex.slots ∧ t.ports = s.ports ∧ t.bu = s.bu ∧ t.mc = s.mc))
  ∧ (∀ (s : State) (u : TaskRef) (plan : CampaignPlan) (rest : List EngineClaim) (p : Port),
      s.ce.claims = .campaign u plan :: rest → s.ce.kept.contains u = false → s.ce.active = none → s.ce.stack = [] →
      s.ce.waiting = [] → s.ce.mode ≠ .hold → (plan.outageOnly = true → s.ce.mode = .outage) →
      s.ce.admission ≤ plan.priority → 1 ≤ plan.concurrency → p.val < 63 → s.fitted p = true →
      plan.ports.getLsbD p.val = true → (∀ q : Port, q.val < p.val → plan.ports.getLsbD q.val = false) →
      Completes .campaign s fun t =>
        (∃ c, t.ce.active = some c ∧ c.task = u ∧ c.view = 0 ∧ c.state = .running ∧ c.admitted = true
            ∧ c.roundStart = some s.mc.clock ∧ c.cursor = p.val + 1
            ∧ c.flying = [{ port := p, num := s.ce.items + 1, started := false }] ∧ c.map[p.val] = .inFlight)
          ∧ t.ce.waiting = [] ∧ t.ce.stack = [] ∧ t.ce.items = s.ce.items + 1
          ∧ t.port p = { s.port p with box := { (s.port p).box with
              items := (s.port p).box.items ++
                [.start (s.ce.items + 1) 0 (plan.work.cut s.mc.env.loadMax)] } }
          ∧ OtherPorts p s t ∧ t.bu = s.bu ∧ t.mc = s.mc ∧ t.ex.slots = s.ex.slots)

/-- The engine takes a mode (R94, R114, R120, R121): with no active campaign to move and none to start it only holds it.
HOLD aborts the items of the active campaign: its round ends if it was DRAINING with reason REST, it ends CANCELLED if
the reason was CANCEL, and it rests with its round kept otherwise. The loss of its condition makes an OUTAGE_ONLY
campaign that is RUNNING or drains for preemption DRAINING with reason MODE (one with nothing in flight rests at once),
and leaves the reasons REST and CANCEL; with the return of the condition one DRAINING with reason MODE is RUNNING again.
-/
def Obligations.EngineTakesMode : Prop :=
  ∀ (s : State) (m : Mode) (rest : List Mode), s.ce.modes = m :: rest →
    (s.ce.active = none → s.ce.stack = [] → s.ce.waiting = [] → Completes .campaignTakeMode s fun t =>
      t.ce = { s.ce with mode := m, modes := rest } ∧ t.ports = s.ports ∧ t.ex.slots = s.ex.slots)
    ∧ (∀ c e, m = .hold → s.ce.active = some c → c.flying = [e] →
        (c.map[e.port.val].final = false → (c.drain = none ∨ c.drain = some .suspend ∨ c.drain = some .mode) →
          Completes .campaignTakeMode s fun t =>
            t.ce.mode = .hold ∧ t.ce.modes = rest ∧ t.ce.active = none
              ∧ t.ce.waiting = placeCampaign { c with
                  state := .resting, drain := none, notBefore := none, flying := []
                  map := c.map.set e.port.val .abortedHold, totals := c.totals.add .abortedHold } s.ce.waiting
              ∧ (t.port e.port).box.items = (s.port e.port).box.items ++ [.abort e.num .abortedHold])
        ∧ (∀ r, c.map[e.port.val].final = false → c.drain = some .rest → c.roundStart = some r →
            (c.roundsDone + 1 ≠ c.plan.rounds → Completes .campaignTakeMode s fun t =>
              t.ce.mode = .hold ∧ t.ce.modes = rest ∧ t.ce.active = none
                ∧ t.ce.waiting = placeCampaign { c with
                    state := .resting, drain := none, flying := [], roundsDone := c.roundsDone + 1
                    notBefore := some (r + 60 * c.plan.interval)
                    map := c.map.set e.port.val .abortedHold, totals := c.totals.add .abortedHold } s.ce.waiting
                ∧ (t.port e.port).box.items = (s.port e.port).box.items ++ [.abort e.num .abortedHold])
            ∧ (c.roundsDone + 1 = c.plan.rounds → HoldsSlot s c.task → Completes .campaignTakeMode s fun t =>
              t.ce.mode = .hold ∧ t.ce.active = none ∧ t.ce.waiting = s.ce.waiting 
                ∧ Answered s t c.task .ok (campaignFields (c.roundsDone + 1) (c.totals.add .abortedHold))
                ∧ (t.port e.port).box.items = (s.port e.port).box.items ++ [.abort e.num .abortedHold]))
        ∧ (c.map[e.port.val].final = true → c.drain = some .cancel → HoldsSlot s c.task →
          Completes .campaignTakeMode s fun t =>
            t.ce.mode = .hold ∧ t.ce.active = none ∧ t.ce.waiting = s.ce.waiting 
              ∧ Answered s t c.task .cancelled (campaignFields c.roundsDone c.totals)
              ∧ t.ports = s.ports))
    ∧ (∀ c, m = .mains → s.ce.active = some c → c.plan.outageOnly = true →
        (c.flying ≠ [] → (c.state = .running ∨ c.state = .draining ∧ c.drain = some .suspend) →
          Completes .campaignTakeMode s fun t =>
            t.ce = { s.ce with
                mode := .mains, modes := rest, active := some { c with state := .draining, drain := some .mode } }
              ∧ t.ports = s.ports)
        ∧ (c.flying ≠ [] → c.state = .draining → (c.drain = some .rest ∨ c.drain = some .cancel) →
          Completes .campaignTakeMode s fun t =>
            t.ce = { s.ce with mode := .mains, modes := rest } ∧ t.ports = s.ports)
        ∧ (c.flying = [] → c.state = .running → s.ce.waiting = [] → s.ce.stack = [] →
          Completes .campaignTakeMode s fun t =>
            t.ce = { s.ce with
                mode := .mains, modes := rest, active := none
                waiting := [{ c with state := .resting, drain := none, notBefore := none }] }
              ∧ t.ports = s.ports ∧ t.ex.slots = s.ex.slots))
    ∧ (∀ c, m = .outage → s.ce.active = some c → c.state = .draining → c.drain = some .mode → c.flying ≠ [] →
        c.cursor < 64 → c.Waits → s.ce.waiting = [] → Completes .campaignTakeMode s fun t =>
          t.ce = { s.ce with
              mode := .outage, modes := rest, active := some { c with state := .running, drain := none } }
            ∧ t.ports = s.ports)

/-- The engine takes a start answer or an item result of an item in flight of a campaign that is draining with more in
flight, so that no other move follows (R116 to R118); a number of no item in flight is dropped. -/
def Obligations.EngineTakesAnswersAndResults : Prop :=
  ∀ (s : State) (p : Port) (num : Word) (k : ResCode) (rest : List Report),
    ((s.port p).box.out = .answer num none :: rest → (∀ c, s.ce.active = some c → c.entry num = none) →
      Completes (.engineTakeStartAnswer p) s fun t => t.ce = s.ce ∧ (t.port p).box.out = rest ∧ OtherPorts p s t)
    ∧ ((s.port p).box.out = .result num k :: rest → (∀ c, s.ce.active = some c → c.entry num = none) →
      Completes (.engineTakeItemResult p) s fun t => t.ce = s.ce ∧ (t.port p).box.out = rest ∧ OtherPorts p s t)
    ∧ (∀ c e, s.ce.active = some c → c.entry num = some e →
        ((s.port p).box.out = .result num k :: rest → Completes (.engineTakeItemResult p) s fun t =>
          t.ce = { s.ce with active := some (c.write e.port k) } ∧ (t.port p).box.out = rest)
        ∧ ((s.port p).box.out = .answer num none :: rest → c.state = .draining →
          Completes (.engineTakeStartAnswer p) s fun t =>
            t.ce = { s.ce with active := some (c.markStarted num) } ∧ (t.port p).box.out = rest)
        ∧ ((s.port p).box.out = .answer num (some k) :: rest → c.state = .draining →
          (c.dropEntry num).flying ≠ [] → Completes (.engineTakeStartAnswer p) s fun t =>
            t.ce = { s.ce with active := some ((c.dropEntry num).write e.port k) } ∧ (t.port p).box.out = rest)
        ∧ (k.final = true → c.map[e.port.val].final = false → (c.write e.port k).map[e.port.val] = k)
        ∧ (c.map[e.port.val].final = true → c.write e.port k = c))

/-- The last item end of a round that drains (R117, R119): after the last of its rounds the campaign ends OK, and after
any other it rests until its not-before time, which makes it active in a new round on an idle engine (R108, R110, R111).
-/
def Obligations.RoundsEndAndResume : Prop :=
  (∀ (s : State) (p : Port) (c : Campaign) (e : Entry) (rest : List Report) (r : Time),
      (s.port p).box.out = .ended e.num :: rest → s.ce.active = some c → c.state = .draining → c.drain = some .rest →
      c.flying = [e] → s.ce.waiting = [] → s.ce.stack = [] → c.roundStart = some r →
      (c.roundsDone + 1 = c.plan.rounds → HoldsSlot s c.task → Completes (.engineTakeItemEnd p) s fun t =>
        t.ce.active = none ∧ t.ce.waiting = [] ∧ t.ce.stack = []
          ∧ Answered s t c.task .ok (campaignFields (c.roundsDone + 1) c.totals)
          ∧ (∃ d, t.ce.ended[c.view.val] = some d ∧ d.state = .ended ∧ d.endStatus = some .ok
              ∧ d.roundsDone = c.roundsDone + 1 ∧ d.flying = [] ∧ d.map = c.map ∧ d.totals = c.totals)
          ∧ (t.port p).box.out = rest)
      ∧ (c.roundsDone + 1 ≠ c.plan.rounds → s.mc.clock < r + 60 * c.plan.interval →
        Completes (.engineTakeItemEnd p) s fun t =>
          t.ce.active = none
            ∧ t.ce.waiting = [{ c with
                state := .resting, drain := none, flying := [], roundsDone := c.roundsDone + 1
                notBefore := some (r + 60 * c.plan.interval) }]
            ∧ t.ex.slots = s.ex.slots ∧ (t.port p).box.out = rest))
  ∧ (∀ (s : State) (c : Campaign) (n : Time) (p : Port), s.ce.active = none → s.ce.stack = [] → s.ce.waiting = [c] →
      s.ce.mode ≠ .hold → (c.plan.outageOnly = true → s.ce.mode = .outage) →
      (c.admitted = true ∨ s.ce.admission ≤ c.plan.priority) → c.notBefore = some n → n ≤ s.mc.clock → c.cursor = 64 →
      1 ≤ c.plan.concurrency → c.flying = [] → p.val < 63 → c.plan.ports.getLsbD p.val = true →
      (∀ q : Port, q.val < p.val → c.plan.ports.getLsbD q.val = false) →
      Completes (.notBeforeReached c.view) s fun t =>
        (∃ d, t.ce.active = some d ∧ d.task = c.task ∧ d.state = .running ∧ d.notBefore = none
            ∧ d.roundStart = some s.mc.clock ∧ d.roundsDone = c.roundsDone ∧ d.cursor = p.val + 1
            ∧ d.flying = [{ port := p, num := s.ce.items + 1, started := false }] ∧ d.map[p.val] = .inFlight)
          ∧ t.ce.waiting = [] ∧ t.ce.items = s.ce.items + 1
          ∧ (t.port p).box.items = (s.port p).box.items ++
              [.start (s.ce.items + 1) c.view (c.plan.work.cut s.mc.env.loadMax)])

/-- Preemption by draining. A campaign that becomes eligible, its not-before time reached, and outranks the RUNNING one
makes it DRAINING with reason SUSPEND while the stack holds fewer than 3, and moves nothing while it holds 3 (R112).
When the drain ends, the drained campaign is pushed onto the stack SUSPENDED and the outranking one made active; with
none left that outranks it, it is RUNNING again and walks on from its cursor (R113). The stack top is resumed with its
round kept when its mode condition is met, and passed over when it is not (R110, R111). -/
def Obligations.PreemptionByDraining : Prop :=
  (∀ (s : State) (c b : Campaign) (n : Time) (rest : List Campaign), s.ce.active = some c → c.state = .running →
      c.cursor < 64 → c.flying ≠ [] → c.Waits → s.ce.waiting = b :: rest → EligibleIn s.ce.mode s b →
      b.notBefore = some n → c.plan.priority < b.plan.priority →
      (s.ce.stack.length < 3 → Completes (.notBeforeReached b.view) s fun t =>
        t.ce = { s.ce with active := some { c with state := .draining, drain := some .suspend } }
          ∧ t.ports = s.ports ∧ t.ex.slots = s.ex.slots)
      ∧ (3 ≤ s.ce.stack.length → Completes (.notBeforeReached b.view) s fun t =>
        t.ce = s.ce ∧ t.ports = s.ports ∧ t.ex.slots = s.ex.slots))
  ∧ (∀ (s : State) (p : Port) (c : Campaign) (e : Entry) (rest : List Report),
      (s.port p).box.out = .ended e.num :: rest → s.ce.active = some c → c.state = .draining →
      c.drain = some .suspend → c.flying = [e] → s.ce.mode ≠ .hold →
      (∀ b q, s.ce.waiting = [b] → EligibleIn s.ce.mode s b → c.plan.priority < b.plan.priority → b.flying = [] →
          b.roundStart = none ∨ b.cursor = 64 → 1 ≤ b.plan.concurrency → b.NextIs 0 q →
          Completes (.engineTakeItemEnd p) s fun t =>
            t.ce.stack = { c with state := .suspended, drain := none, flying := [] } :: s.ce.stack
              ∧ t.ce.waiting = []
              ∧ (∃ d, t.ce.active = some d ∧ d.task = b.task ∧ d.state = .running ∧ d.admitted = true
                  ∧ d.roundStart = some s.mc.clock
                  ∧ d.flying = [{ port := q, num := s.ce.items + 1, started := false }])
              ∧ t.ex.slots = s.ex.slots)
      ∧ (∀ q, s.ce.waiting = [] → 1 ≤ c.plan.concurrency → c.NextIs c.cursor q →
          Completes (.engineTakeItemEnd p) s fun t =>
            t.ce = { s.ce with
                active := some ({ c with state := .running, drain := none, flying := [] }.claims q (s.ce.items + 1))
                items := s.ce.items + 1 }
              ∧ (t.port q).box.items = (s.port q).box.items ++
                  [.start (s.ce.items + 1) c.view (c.plan.work.cut s.mc.env.loadMax)]))
  ∧ (∀ (s : State) (m : Mode) (modes : List Mode) (c : Campaign) (rest : List Campaign), s.ce.modes = m :: modes →
      m ≠ .hold → s.ce.active = none → s.ce.waiting = [] → s.ce.stack = c :: rest →
      (∀ r q, (c.plan.outageOnly = true → m = .outage) → c.roundStart = some r → c.flying = [] →
          1 ≤ c.plan.concurrency → c.NextIs c.cursor q → Completes .campaignTakeMode s fun t =>
            t.ce = { s.ce with
                mode := m, modes := modes, stack := rest, items := s.ce.items + 1
                active := some ({ c with state := .running, drain := none, admitted := true, notBefore := none }.claims
                  q (s.ce.items + 1)) }
              ∧ (t.port q).box.items = (s.port q).box.items ++
                  [.start (s.ce.items + 1) c.view (c.plan.work.cut s.mc.env.loadMax)])
      ∧ (c.plan.outageOnly = true → m ≠ .outage → Completes .campaignTakeMode s fun t =>
          t.ce = { s.ce with mode := m, modes := modes } ∧ t.ports = s.ports))

/-- A cancel at the engine (R122): a waiting campaign ends CANCELLED; the active one aborts its item and drains; one
whose claim is still to be taken is kept for it. CLEAR (R123): every campaign held ends CLEARED and the three places are
empty. -/
def Obligations.EngineTakesCancelAndClear : Prop :=
  (∀ (s : State) (u : TaskRef) (rest : List TaskRef), s.ce.cancels = u :: rest →
      (∀ c, s.ce.active = none → s.ce.stack = [] → s.ce.waiting = [c] → c.task = u → HoldsSlot s u →
        Completes .engineTakeCancel s fun t =>
          Answered s t u .cancelled (campaignFields c.roundsDone c.totals) ∧ t.ce.waiting = []
            ∧ t.ce.active = none ∧ t.ce.cancels = rest)
      ∧ (∀ c e, s.ce.active = some c → c.task = u → c.drain = none → c.flying = [e] →
          c.map[e.port.val].final = false → Completes .engineTakeCancel s fun t =>
            t.ce.active = some { c with
                state := .draining, drain := some .cancel
                map := c.map.set e.port.val .abortedHost, totals := c.totals.add .abortedHost }
              ∧ (t.port e.port).box.items = (s.port e.port).box.items ++ [.abort e.num .abortedHost]
              ∧ t.ex.slots = s.ex.slots ∧ t.ce.cancels = rest)
      ∧ (s.ce.active = none → s.ce.stack = [] → s.ce.waiting = [] → Completes .engineTakeCancel s fun t =>
          t.ce = { s.ce with
              cancels := rest
              kept := if s.ce.claimed u then s.ce.kept ++ [u] else s.ce.kept }
            ∧ t.ex.slots = s.ex.slots))
  ∧ (∀ (s : State) (rest : List EngineClaim), s.ce.claims = .clear :: rest → Completes .engineTakeClear s fun t =>
      t.ce.active = none ∧ t.ce.stack = [] ∧ t.ce.waiting = [] ∧ t.ce.claims = rest
        ∧ t.ce.admission = s.ce.admission ∧ t.ce.mode = s.ce.mode
        ∧ (∀ c, c ∈ s.ce.held → HoldsSlot s c.task → ∃ fields, Answered s t c.task .cleared fields)
        ∧ ((s.ce.held.map (·.task)).Nodup → ∀ c, HoldsSlot s c.task →
            (c ∈ s.ce.stack ∨ c ∈ s.ce.waiting ∨ s.ce.active = some c ∧ c.flying = [] →
              Answered s t c.task .cleared (campaignFields c.roundsDone c.totals))
            ∧ (∀ e, s.ce.active = some c → c.flying = [e] → c.map[e.port.val].final = false →
              Answered s t c.task .cleared (campaignFields c.roundsDone (c.totals.add .abortedHost))))
        ∧ (∀ c e, s.ce.active = some c → c.flying = [e] → c.map[e.port.val].final = false →
            (t.port e.port).box.items = (s.port e.port).box.items ++ [.abort e.num .abortedHost]))

/-! ### The gateway feed controller -/

/-- The gateway feed controller takes a mode or a shed level (R139 to R141): the forcing condition is judged. As it
begins, with GATEWAY_FORCED, a gateway that is ON or in a voluntary GRACE is given the forced grace, and one in REST_OFF
is FORCED_OFF; as it ends, one FORCED_OFF or in a forced GRACE comes back ON with FORCED_END; in BOOT_WAIT the flag
alone moves. MAINS ends a BOOT_WAIT with BOOT, and is the MAINS wake of a rest whose mask holds it (R143; that the
taking of the mode is the entry to MAINS, and no condition waits for it, is the model's, log 6). The end of a grace
switches the feed off, and a wake condition in the mask brings a resting gateway back with its cause and a rewrite of
the part status record (R141 to R143, R146). -/
def Obligations.GatewayFeedController : Prop :=
  (∀ (s : State) (m : Mode) (n : Nat) (modes : List Mode) (sheds : List Nat),
      (s.gw.modes = m :: modes → Completes .gatewayTakeMode s fun t =>
        t.gw.mode = m ∧ t.gw.modes = modes
          ∧ (t.gw.forcing = true ↔ m = .hold ∨ m = .outage ∧ s.gw.shedLimit ≤ s.gw.shed)
          ∧ t.mc = s.mc ∧ t.bu = s.bu ∧ t.ce = s.ce ∧ t.ports = s.ports ∧ t.ex.slots = s.ex.slots)
      ∧ (s.gw.sheds = n :: sheds → Completes .gatewayTakeShedLevel s fun t =>
        t.gw.shed = n ∧ t.gw.sheds = sheds
          ∧ (t.gw.forcing = true ↔ s.gw.mode = .hold ∨ s.gw.mode = .outage ∧ s.gw.shedLimit ≤ n)
          ∧ t.mc = s.mc ∧ t.bu = s.bu ∧ t.ce = s.ce ∧ t.ports = s.ports ∧ t.ex.slots = s.ex.slots)
      ∧ (s.gw.modes = .hold :: modes → s.gw.forcing = false → s.gw.state = .on → Completes .gatewayTakeMode s fun t =>
        t.gw.state = .grace ∧ t.gw.grace = some .forced ∧ t.gw.graceEnd = some (s.mc.clock + 60)
          ∧ t.gw.rest = .none ∧ t.gw.mask = 0
          ∧ EventsNow s t (s.ex.partEvent ||| PartEvent.gatewayForced.mask))
      ∧ (s.gw.sheds = n :: sheds → s.gw.mode = .outage → n < s.gw.shedLimit → s.gw.forcing = true →
          s.gw.state = .forcedOff → Completes .gatewayTakeShedLevel s fun t =>
            t.gw.state = .on ∧ t.gw.rest = .none ∧ t.gw.mask = 0
              ∧ t.ex.wakeCause = s.ex.wakeCause ||| Cause.forcedEnd.mask)
      ∧ (s.gw.modes = .mains :: modes → s.gw.forcing = false → s.gw.state = .bootWait →
          s.gw.rest = .none → Completes .gatewayTakeMode s fun t =>
            t.gw.state = .on ∧ t.ex.wakeCause = s.ex.wakeCause ||| Cause.boot.mask)
      ∧ (s.gw.modes = .mains :: modes → s.gw.forcing = false →
          (s.gw.mask &&& condMask .mains ≠ 0 →
            (s.gw.state = .on ∧ s.gw.rest = .idle ∨ s.gw.state = .grace ∧ s.gw.grace = some .voluntary
                ∨ s.gw.state = .restOff) →
            Completes .gatewayTakeMode s fun t =>
              t.gw.state = .on ∧ t.gw.rest = .none ∧ t.gw.mask = 0 ∧ t.gw.grace = none ∧ t.gw.graceEnd = none
                ∧ t.ex.wakeCause = s.ex.wakeCause ||| Cause.mains.mask ∧ ViewId.partStatus ∈ t.ex.views)
          ∧ (s.gw.mask &&& condMask .mains = 0 → s.gw.state ≠ .bootWait → Completes .gatewayTakeMode s fun t =>
              t.gw = { s.gw with mode := .mains, modes := modes } ∧ t.ex.wakeCause = s.ex.wakeCause))
      ∧ (∀ c, (c = Instr.gatewayTakeMode ∧ s.gw.modes = .hold :: modes
              ∨ c = .gatewayTakeMode ∧ s.gw.modes = .outage :: modes ∧ s.gw.shedLimit ≤ s.gw.shed
              ∨ c = .gatewayTakeShedLevel ∧ s.gw.sheds = n :: sheds ∧ s.gw.mode = .outage ∧ s.gw.shedLimit ≤ n) →
          s.gw.forcing = false →
          (s.gw.state = .on ∨ s.gw.state = .grace ∧ s.gw.grace = some .voluntary → Completes c s fun t =>
            t.gw.state = .grace ∧ t.gw.grace = some .forced ∧ t.gw.graceEnd = some (s.mc.clock + 60)
              ∧ t.gw.rest = .none ∧ t.gw.mask = 0 ∧ t.gw.forcing = true
              ∧ EventsNow s t (s.ex.partEvent ||| PartEvent.gatewayForced.mask))
          ∧ (s.gw.state = .restOff → Completes c s fun t =>
            t.gw.state = .forcedOff ∧ t.gw.grace = s.gw.grace ∧ t.gw.rest = .none ∧ t.gw.mask = 0
              ∧ t.gw.forcing = true ∧ EventsNow s t (s.ex.partEvent ||| PartEvent.gatewayForced.mask))
          ∧ (s.gw.state = .bootWait → Completes c s fun t =>
            t.gw.state = .bootWait ∧ t.gw.rest = s.gw.rest ∧ t.gw.mask = s.gw.mask ∧ t.gw.forcing = true
              ∧ EventsNow s t s.ex.partEvent))
      ∧ (∀ c, (c = Instr.gatewayTakeMode ∧ s.gw.modes = .mains :: modes
              ∨ c = .gatewayTakeMode ∧ s.gw.modes = .outage :: modes ∧ s.gw.shed < s.gw.shedLimit
              ∨ c = .gatewayTakeShedLevel ∧ s.gw.sheds = n :: sheds ∧ s.gw.mode = .outage ∧ n < s.gw.shedLimit) →
          s.gw.forcing = true →
          (s.gw.state = .forcedOff ∨ s.gw.state = .grace ∧ s.gw.grace = some .forced → Completes c s fun t =>
            t.gw.state = .on ∧ t.gw.grace = none ∧ t.gw.graceEnd = none ∧ t.gw.rest = .none ∧ t.gw.mask = 0
              ∧ t.gw.forcing = false ∧ t.ex.wakeCause = s.ex.wakeCause ||| Cause.forcedEnd.mask
              ∧ t.ex.partEvent = s.ex.partEvent)
          ∧ (s.gw.state = .bootWait → (c = .gatewayTakeMode → s.gw.modes ≠ .mains :: modes) → Completes c s fun t =>
            t.gw.state = .bootWait ∧ t.gw.forcing = false ∧ t.ex.wakeCause = s.ex.wakeCause
              ∧ t.ex.partEvent = s.ex.partEvent)
          ∧ (s.gw.state = .bootWait → s.gw.rest = .none → c = .gatewayTakeMode → s.gw.modes = .mains :: modes →
            Completes c s fun t =>
              t.gw.state = .on ∧ t.gw.forcing = false ∧ t.ex.wakeCause = s.ex.wakeCause ||| Cause.boot.mask)))
  ∧ (∀ (s : State) (c : WakeCond) (g : Time),
      (s.gw.state = .grace → s.gw.graceEnd = some g → g ≤ s.mc.clock → Completes .graceEnd s fun t =>
        t.gw.state = (if s.gw.grace = some .forced then .forcedOff else .restOff)
          ∧ t.gw.grace = none ∧ t.gw.graceEnd = none ∧ t.gw.rest = s.gw.rest ∧ t.gw.mask = s.gw.mask
          ∧ t.mc = s.mc ∧ t.bu = s.bu ∧ t.ce = s.ce ∧ t.ports = s.ports ∧ ExchangeKept s t)
      ∧ (c ∈ s.gw.wakes →
          (s.gw.resting = true → s.gw.mask &&& condMask c ≠ 0 → Completes (.gatewayTakeWakeCondition c) s fun t =>
            t.gw.state = .on ∧ t.gw.rest = .none ∧ t.gw.mask = 0 ∧ t.gw.grace = none ∧ t.gw.graceEnd = none
              ∧ t.ex.wakeCause = s.ex.wakeCause ||| (condCause c).mask ∧ t.gw.wakes = s.gw.wakes.erase c
              ∧ ViewId.partStatus ∈ t.ex.views)
          ∧ (s.gw.resting = false ∨ s.gw.mask &&& condMask c = 0 → Completes (.gatewayTakeWakeCondition c) s fun t =>
            t.gw = { s.gw with wakes := s.gw.wakes.erase c } ∧ t.ex.wakeCause = s.ex.wakeCause
              ∧ t.ports = s.ports ∧ t.bu = s.bu ∧ t.mc = s.mc ∧ t.ce = s.ce)))

/-! ### The exchange port -/

/-- SPI transactions (R147, R148): a read gives what stands at each address and touches nothing, from any 16-bit address
or from where the transaction has come to; an unknown command byte and the release of the select line move the
transaction, and a word left part-written raises STRAY_WRITE (that it does so as the transaction ends, and that a
transaction begins with its first data command, is the model's: logs 15, 16). What stands at an address (section 10-1):
the identity, the slots by their states, the words stored, the events and causes, PORT ATTENTION by R18; the status and
enable words of each port, 0 for one that is not fitted (R1); 0 in the zero areas and from 0x4000 up; and the plain
memory everywhere else. -/
def Obligations.SpiTransactions : Prop :=
  (∀ (s : State) (a n : Nat) (cmd : Byte),
    (s.ex.spi = .idle ∧ a < 0x10000 ∨ s.ex.spi = .reading a → Completes (.spiRead a n) s fun t =>
      t.ex.spiOut = (List.range n).map (fun i => s.readByte (a + i)) ∧ t.ex.spi = .reading (a + n)
        ∧ OnlyExchange s t ∧ t.ex.mem = s.ex.mem ∧ t.ex.slots = s.ex.slots ∧ t.ex.partEvent = s.ex.partEvent)
    ∧ (s.ex.spi = .idle → cmd ≠ 0x02 → cmd ≠ 0x03 → Completes (.spiUnknownCommand cmd) s fun t =>
      t.ex.spi = .ignoring ∧ OnlyExchange s t ∧ t.ex.mem = s.ex.mem ∧ t.ex.slots = s.ex.slots
        ∧ t.ex.partEvent = s.ex.partEvent)
    ∧ ((∀ x b r st, s.ex.spi ≠ .writing x (b :: r) st) → Completes .spiTransactionEnd s fun t =>
      t.ex.spi = .idle ∧ OnlyExchange s t ∧ t.ex.mem = s.ex.mem ∧ t.ex.slots = s.ex.slots
        ∧ t.ex.partEvent = s.ex.partEvent)
    ∧ (∀ x b r, s.ex.spi = .writing x (b :: r) false → Completes .spiTransactionEnd s fun t =>
      t.ex.spi = .idle ∧ t.ex.partEvent = s.ex.partEvent ||| PartEvent.strayWrite.mask ∧ t.ex.mem = s.ex.mem
        ∧ t.ex.slots = s.ex.slots ∧ OnlyExchange s t))
  ∧ ∀ s : State,
    ReadsWord s 0x00 (BitVec.ofNat 32 (0x0D64 + 65536 * fitCount s.mc.fit))
      ∧ (∃ w, ReadsWord s 0x10 w ∧ ∀ i : Slot, w.getLsbD i.val = true ↔ s.ex.slots[i.val] = .posted)
      ∧ (∃ w, ReadsWord s 0x14 w ∧
          ∀ i : Slot, w.getLsbD i.val = true ↔ ∃ take tag o, s.ex.slots[i.val] = .taken take tag o true)
      ∧ (∃ w, ReadsWord s 0x18 w ∧
          ∀ i : Slot, w.getLsbD i.val = true ↔ ∃ take tag o c, s.ex.slots[i.val] = .taken take tag o c)
      ∧ (∃ w, ReadsWord s 0x1C w ∧ ∀ i : Slot, w.getLsbD i.val = true ↔ s.ex.slots[i.val] = .done)
      ∧ ReadsWord s 0x20 s.ex.doneEn ∧ ReadsWord s 0x24 s.ex.partEvent ∧ ReadsWord s 0x28 s.ex.partEventEn
      ∧ ReadsWord s 0x2C s.ex.wakeCause
      ∧ (∃ low high, ReadsWord s 0x30 low ∧ ReadsWord s 0x34 high ∧ ∀ p : Port,
          (if p.val < 32 then low.getLsbD p.val else high.getLsbD (p.val - 32)) = true ↔
            s.fitted p = true ∧ (s.port p).rep.status &&& (s.port p).rep.enable ≠ 0)
      ∧ (∀ p : Port, ReadsHalf s (0x100 + 4 * p.val) (if s.fitted p then (s.port p).rep.status else 0)
          ∧ ReadsHalf s (0x102 + 4 * p.val) (if s.fitted p then (s.port p).rep.enable else 0))
      ∧ ∀ a,
          ((0x04 ≤ a ∧ a < 0x10) ∨ (0x38 ≤ a ∧ a < 0x40) ∨ (0x340 ≤ a ∧ a < 0x400) ∨ 0x3A00 ≤ a → s.readByte a = 0)
            ∧ ((0x40 ≤ a ∧ a < 0x100) ∨ (0x200 ≤ a ∧ a < 0x340) ∨ (0x400 ≤ a ∧ a < 0x3A00) →
              s.readByte a = Memory.read s.ex.mem a)

/-- A whole write to POST (R150): each FREE slot named becomes POSTED and joins the intake queue in ascending order, any
other stands, and one that is not FREE raises POST_CLASH. A whole write to CANCEL that names one slot (R153): a POSTED
slot is DONE with CANCELLED at once, a TAKEN one has its cancel forwarded to its owner once, and a FREE or DONE one
stands. -/
def Obligations.PostAndCancelWrites : Prop :=
  (∀ (s : State) (v : Word) (stray : Bool), s.ex.writable 0x10 = some ([], stray) → Completes (.postWrite v) s fun t =>
      (∀ i : Slot, t.ex.slots[i.val] =
          if v.getLsbD i.val = true ∧ s.ex.slots[i.val] = .free then .posted else s.ex.slots[i.val])
        ∧ t.ex.intake = s.ex.intake ++
            allSlots.filter (fun i => v.getLsbD i.val && s.ex.slots[i.val].isFree)
        ∧ ((∃ i : Slot, v.getLsbD i.val = true ∧ s.ex.slots[i.val] ≠ .free) →
            t.ex.partEvent = s.ex.partEvent ||| PartEvent.postClash.mask)
        ∧ ((∀ i : Slot, v.getLsbD i.val = true → s.ex.slots[i.val] = .free) → t.ex.partEvent = s.ex.partEvent)
        ∧ OnlyExchange s t ∧ t.ex.mem = s.ex.mem)
  ∧ (∀ (s : State) (i : Slot) (stray : Bool), s.ex.writable 0x14 = some ([], stray) →
      (s.ex.slots[i.val] = .posted → Completes (.cancelWrite (BitVec.twoPow 32 i.val)) s fun t =>
        t.ex.slots = s.ex.slots.set i.val .done ∧ t.ex.intake = s.ex.intake.filter (fun j => j != i)
          ∧ Settled s t i .cancelled []
          ∧ SameMemoryOutside (resultBase i) 64 s t ∧ OnlyExchange s t)
      ∧ (∀ take tag p, s.ex.slots[i.val] = .taken take tag (.port p) false →
          Completes (.cancelWrite (BitVec.twoPow 32 i.val)) s fun t =>
            t.ex.slots = s.ex.slots.set i.val (.taken take tag (.port p) true)
              ∧ (t.port p).box.cancels = (s.port p).box.cancels ++ [{ slot := i, take := take }]
              ∧ OtherPorts p s t ∧ t.ce = s.ce ∧ SameMemory s t)
      ∧ (∀ take tag, s.ex.slots[i.val] = .taken take tag .engine false →
          Completes (.cancelWrite (BitVec.twoPow 32 i.val)) s fun t =>
            t.ex.slots = s.ex.slots.set i.val (.taken take tag .engine true)
              ∧ t.ce = { s.ce with cancels := s.ce.cancels ++ [{ slot := i, take := take }] }
              ∧ t.ports = s.ports ∧ SameMemory s t)
      ∧ ((s.ex.slots[i.val] = .free ∨ s.ex.slots[i.val] = .done
            ∨ ∃ take tag o, s.ex.slots[i.val] = .taken take tag o true) →
          Completes (.cancelWrite (BitVec.twoPow 32 i.val)) s fun t =>
            t.ex.slots = s.ex.slots ∧ t.ce = s.ce ∧ t.ports = s.ports ∧ SameMemory s t))

/-- Whole writes to the other active words (R145, R148, R152, R154): DONE gives DONE slots back, the enables are stored,
PART EVENT and the wake cause are cleared by bits written 1, and a read-only word raises STRAY_WRITE. -/
def Obligations.FlagWordWrites : Prop :=
  ∀ (s : State) (v : Word) (stray : Bool),
    (s.ex.writable 0x1C = some ([], stray) → Completes (.doneWrite v) s fun t =>
      (∀ i : Slot, t.ex.slots[i.val] =
          if v.getLsbD i.val = true ∧ s.ex.slots[i.val] = .done then .free else s.ex.slots[i.val])
        ∧ OnlyExchange s t ∧ t.ex.mem = s.ex.mem ∧ t.ex.partEvent = s.ex.partEvent)
    ∧ (s.ex.writable 0x20 = some ([], stray) → Completes (.doneEnWrite v) s fun t =>
      t.ex.doneEn = v ∧ OnlyExchange s t ∧ t.ex.mem = s.ex.mem ∧ t.ex.slots = s.ex.slots
        ∧ t.ex.partEvent = s.ex.partEvent)
    ∧ (s.ex.writable 0x24 = some ([], stray) → Completes (.partEventWrite v) s fun t =>
      t.ex.partEvent = s.ex.partEvent &&& ~~~v ∧ OnlyExchange s t ∧ t.ex.mem = s.ex.mem ∧ t.ex.slots = s.ex.slots)
    ∧ (s.ex.writable 0x28 = some ([], stray) → Completes (.partEventEnableWrite v) s fun t =>
      t.ex.partEventEn = v ∧ t.ex.partEvent = s.ex.partEvent ∧ t.gw.wakes = s.gw.wakes ∧ OnlyExchange s t
        ∧ t.ex.mem = s.ex.mem ∧ t.ex.slots = s.ex.slots)
    ∧ (s.ex.writable 0x2C = some ([], stray) → Completes (.gatewayWakeCauseWrite v) s fun t =>
      t.ex.wakeCause = s.ex.wakeCause &&& ~~~v ∧ OnlyExchange s t ∧ t.ex.mem = s.ex.mem
        ∧ t.ex.slots = s.ex.slots ∧ t.ex.partEvent = s.ex.partEvent)
    ∧ (∀ w, s.ex.writable (readOnlyBase w) = some ([], stray) → Completes (.readOnlyWordWrite w v) s fun t =>
      t.ex.partEvent = s.ex.partEvent ||| PartEvent.strayWrite.mask ∧ OnlyExchange s t ∧ t.ex.mem = s.ex.mem
        ∧ t.ex.slots = s.ex.slots)

/-- Whole writes to a port's status and enable words (R17, R18, R149): bits written 1 are cleared, but DEMAND while a
demand stands and FAULT while the latch is set; the enable word is stored; a port that is not fitted ignores both, with
STRAY_WRITE (that it is raised at the write is the model's choice, log 16). -/
def Obligations.PortWordWrites : Prop :=
  ∀ (s : State) (p : Port) (v : Half),
    (∀ stray, s.ex.writable (0x100 + 4 * p.val) = some ([], stray) → s.fitted p = true →
      Completes (.portStatusWrite p v) s fun t =>
        (∀ b : StatusBit, (t.port p).rep.status &&& b.mask =
            if v &&& b.mask = b.mask ∧ ¬ (b = .demand ∧ (s.port p).dem.state ≠ .idle)
                ∧ ¬ (b = .fault ∧ (s.port p).feed.latch = true) then 0
            else (s.port p).rep.status &&& b.mask)
          ∧ t.port p = { s.port p with rep := { (s.port p).rep with status := (t.port p).rep.status } }
          ∧ OtherPorts p s t ∧ t.ex.mem = s.ex.mem ∧ t.ex.slots = s.ex.slots
          ∧ t.ex.partEvent = s.ex.partEvent)
    ∧ (∀ stray, s.ex.writable (0x102 + 4 * p.val) = some ([], stray) → s.fitted p = true →
      Completes (.portEnableWrite p v) s fun t =>
        t.port p = { s.port p with rep := { (s.port p).rep with enable := v } } ∧ OtherPorts p s t
          ∧ t.ex.mem = s.ex.mem ∧ t.ex.slots = s.ex.slots ∧ t.ex.partEvent = s.ex.partEvent)
    ∧ (s.ex.writable (0x100 + 4 * p.val) = some ([], false) → s.fitted p = false →
      Completes (.portStatusWrite p v) s fun t =>
        t.ports = s.ports ∧ t.ex.partEvent = s.ex.partEvent ||| PartEvent.strayWrite.mask)
    ∧ (s.ex.writable (0x102 + 4 * p.val) = some ([], false) → s.fitted p = false →
      Completes (.portEnableWrite p v) s fun t =>
        t.ports = s.ports ∧ t.ex.partEvent = s.ex.partEvent ||| PartEvent.strayWrite.mask)

/-- Writes by byte, in a transaction that stands at the address (R147 to R149): a byte is stored in the card half of a
FREE slot; the bytes of an active word and of a fitted port's words wait for the last one, with which the whole write
takes effect; and a byte is ignored everywhere else and in a word begun inside, with STRAY_WRITE, once for the
transaction. A run is its bytes in turn, whatever areas it crosses. (That STRAY_WRITE is raised at the byte ignored is
the model's choice, log 16; that a transaction begins with its first data byte, and that a byte for an address the
transaction does not stand at does nothing, logs 15 and 1.) -/
def Obligations.PlainByteWritten : Prop :=
  (∀ (s : State) (a : Nat) (b : Byte) (stray : Bool), s.ex.writable a = some ([], stray) →
    (∀ i : Slot, s.ex.slots[i.val] = .free → slotBase i ≤ a → a < slotBase i + 64 →
      Completes (.plainWrite a [b]) s fun t =>
        Memory.read t.ex.mem a = b ∧ SameMemoryOutside a 1 s t ∧ t.ex.slots = s.ex.slots
          ∧ t.ex.partEvent = s.ex.partEvent ∧ t.ex.spi = .writing (a + 1) [] stray ∧ OnlyExchange s t)
    ∧ ((∃ i : Slot, s.ex.slots[i.val] ≠ .free ∧ slotBase i ≤ a ∧ a < slotBase i + 64)
          ∨ (∃ i : Slot, resultBase i ≤ a ∧ a < resultBase i + 64)
          ∨ (0x04 ≤ a ∧ a < 0x10) ∨ (0x38 ≤ a ∧ a < 0x100) ∨ (0x200 ≤ a ∧ a < 0x400) ∨ 0x1400 ≤ a
          ∨ (∃ w, w ∈ activeWords ∧ w.1 < a ∧ a < w.1 + 4)
          ∨ (∃ p : Port, s.fitted p = false ∧ 0x100 + 4 * p.val ≤ a ∧ a < 0x104 + 4 * p.val)
          ∨ (∃ p : Port, ∃ w, w ∈ pageWords p ∧ a = w.1 + 1) →
      Completes (.plainWrite a [b]) s fun t =>
        t.ex.mem = s.ex.mem ∧ t.ex.slots = s.ex.slots ∧ t.ex.spi = .writing (a + 1) [] true
          ∧ t.ex.partEvent = (if stray then s.ex.partEvent else s.ex.partEvent ||| PartEvent.strayWrite.mask)
          ∧ OnlyExchange s t))
  ∧ (∀ (s : State) (a k : Nat) (b : Byte) (word : List Byte) (stray : Bool),
      s.ex.writable (a + k) = some (word, stray) →
      word.length = k → ((∃ w, w ∈ activeWords ∧ w.1 = a ∧ k < 3)
        ∨ ∃ p : Port, s.fitted p = true ∧ ∃ w, w ∈ pageWords p ∧ w.1 = a ∧ k = 0) →
      Completes (.plainWrite (a + k) [b]) s fun t =>
        t.ex.spi = .writing (a + k + 1) (word ++ [b]) stray ∧ t.ex.mem = s.ex.mem ∧ t.ex.slots = s.ex.slots
          ∧ t.ex.partEvent = s.ex.partEvent ∧ OnlyExchange s t)
  ∧ (∀ (s : State) (b0 b1 b2 b3 : Byte) (stray : Bool) (w : Nat × (Word → Instr)), w ∈ activeWords →
      exec (.plainWrite (w.1 + 3) [b3]) (s.spiAt (w.1 + 3) [b0, b1, b2] stray)
        = exec (w.2 (b3 ++ b2 ++ b1 ++ b0)) (s.spiAt w.1 [] stray))
  ∧ (∀ (s : State) (b0 b1 : Byte) (stray : Bool) (p : Port) (w : Nat × (Half → Instr)), s.fitted p = true →
      w ∈ pageWords p → exec (.plainWrite (w.1 + 1) [b1]) (s.spiAt (w.1 + 1) [b0] stray)
        = exec (w.2 (b1 ++ b0)) (s.spiAt w.1 [] stray))
  ∧ (∀ (s : State) (a : Nat) (b : Byte) (bytes : List Byte),
      (s.ex.writable a = none → exec (.plainWrite a bytes) s = .next s)
      ∧ (s.ex.writable a ≠ none → ∀ t, exec (.plainWrite a [b]) s = .next t →
          exec (.plainWrite a (b :: bytes)) s = exec (.plainWrite (a + 1) bytes) t))

/-- The intake takes the oldest posted slot (R151, R158): it leaves the queue under the next take number, and the first
check that fails completes the task at once: an unknown kind BAD_KIND, a port task for a port at or above the fitted
count NO_PORT, a field outside its range BAD_FIELD. A PORT POLL, WAKE, SLEEP or RESTART that passes is handed to its
port and a CAMPAIGN to the campaign engine, with the card's fields, and the slot is TAKEN by that owner. -/
def Obligations.IntakeTakesHead : Prop :=
  ∀ (s : State) (i : Slot) (rest : List Slot) (card : List Byte) (u : TaskRef), s.ex.intake = i :: rest →
    card = Memory.run s.ex.mem (slotBase i) 64 → u = { slot := i, take := s.ex.takeNo + 1 } →
    (∀ st : Status,
      (st = .badKind ∧ (12 < cardByte card 0 ∨ cardByte card 0 = 0)
          ∨ st = .noPort ∧ 1 ≤ cardByte card 0 ∧ cardByte card 0 ≤ 6 ∧ fitCount s.mc.fit ≤ cardByte card 4
          ∨ st = .badField ∧ CardOutOfRange s card
            ∧ (cardByte card 0 ≤ 6 → cardByte card 4 < fitCount s.mc.fit)) →
        Completes .intakeTake s fun t =>
          Settled s t i st [] ∧ t.ex.intake = rest ∧ t.ex.takeNo = s.ex.takeNo + 1
            ∧ SameMemoryOutside (resultBase i) 64 s t ∧ OnlyExchange s t)
    ∧ (∀ (p : Port) (claim : PortClaim),
        (cardByte card 0 = 2 ∧ claim = .poll u
          ∨ cardByte card 0 = 3 ∧ 1 ≤ cardByte card 5 ∧ claim = .wake u (cardByte card 5)
          ∨ cardByte card 0 = 4 ∧ claim = .sleep u ∨ cardByte card 0 = 5 ∧ claim = .restart u) →
        cardByte card 4 = p.val → s.fitted p = true → Completes .intakeTake s fun t =>
          t.ex.slots = s.ex.slots.set i.val (.taken u.take (cardTag card) (.port p) false)
            ∧ (t.port p).box.tasks = (s.port p).box.tasks ++ [claim] ∧ t.ex.intake = rest
            ∧ t.ex.takeNo = s.ex.takeNo + 1 ∧ t.ex.mem = s.ex.mem ∧ OtherPorts p s t ∧ t.bu = s.bu ∧ t.mc = s.mc
            ∧ t.ce = s.ce)
    ∧ (cardByte card 0 = 9 → ¬ CardOutOfRange s card → Completes .intakeTake s fun t =>
        t.ex.slots = s.ex.slots.set i.val (.taken u.take (cardTag card) .engine false)
          ∧ t.ce = { s.ce with claims := s.ce.claims ++ [.campaign u {
              work := if cardByte card 4 = 0 then
                  .test (cardByte card 20) (cardHalf card 22) (cardHalf card 24) (cardHalf card 26)
                else .wake (cardByte card 28)
              priority := cardByte card 5, ports := cardSet card 12, rounds := cardByte card 6
              interval := cardHalf card 8, concurrency := cardByte card 7
              outageOnly := decide (cardByte card 10 = 1) }] }
          ∧ t.ex.intake = rest ∧ t.ex.takeNo = s.ex.takeNo + 1 ∧ t.ex.mem = s.ex.mem ∧ t.ports = s.ports
          ∧ t.bu = s.bu ∧ t.mc = s.mc)

/-- The kinds of task that the intake settles in its own event (R54, R59, R103, R109, R142, R161, R163, R165): its
checked card `card` says which. A PORT SETUP that leaves the target tells the budget unit of its limit code and its tier
(R47, R48): a lower code lowers the grant in place with a CHARGE of it (R33), a higher one releases the grant, asks anew
and hands over CHARGE 0, a request takes the code in place, a new tier is written in the grant, and moves a request to
the place it gives. The kind fields of a GATEWAY REST's result show the rest that it begins (R142, section 12-4; an
absent grace end: log 23). (The floor in force that BUDGET SETUP is checked against is the mode controller's: DEDUCED,
log 19.) -/
def Obligations.IntakeSettlesTasks : Prop :=
  ∀ (s : State) (i : Slot) (rest : List Slot) (card : Card), s.ex.intake = i :: rest →
    readCard s.mc.fit s.mc.env.limitMax s.mc.env.loadMax (Memory.run s.ex.mem (slotBase i) 64) = .ok card →
    (∀ e : Envelope, card = .envelope e → s.mc.lock = none →
      ((e.ceiling < 10 ∨ 4000 < e.ceiling ∨ e.cutoff < 3600 ∨ 5600 < e.cutoff ∨ e.limitMax < 1 ∨ 63 < e.limitMax
            ∨ e.loadMax < 1 ∨ 15 < e.loadMax) → Completes .intakeTake s fun t =>
        Settled s t i .badField [] ∧ OnlyExchange s t)
      ∧ (10 ≤ e.ceiling → e.ceiling ≤ 4000 → e.floor ≤ 65535 → 3600 ≤ e.cutoff → e.cutoff ≤ 5600 → 1 ≤ e.limitMax →
          e.limitMax ≤ 63 → 1 ≤ e.loadMax → e.loadMax ≤ 15 →
          (e.ceiling < e.limitMax ∨ (∃ h, s.bu.thresholds = some h ∧ h.t1 ≤ e.floor)
              ∨ (∃ c, s.bu.capacity = some c ∧ c < e.floor) → Completes .intakeTake s fun t =>
            Settled s t i .badOrder [] ∧ OnlyExchange s t)
          ∧ (e.limitMax ≤ e.ceiling → (∀ h, s.bu.thresholds = some h → e.floor < h.t1) →
              (∀ c, s.bu.capacity = some c → e.floor ≤ c) → Completes .intakeTake s fun t =>
        Settled s t i .ok (Memory.le32 s.mc.clock)
          ∧ t.mc = { s.mc with env := e, lock := some (.accepted, s.mc.clock) }
          ∧ t.bu = { s.bu with ceilings := s.bu.ceilings ++ [(e.ceiling, e.floor)] }
          ∧ (∀ p, s.fitted p = true → (t.port p).box.limits = (s.port p).box.limits ++ [e.limitMax])
          ∧ Raised t .envelopeLocked)))
    ∧ (∀ e why time, card = .envelope e → s.mc.lock = some (why, time) → Completes .intakeTake s fun t =>
        Settled s t i .locked (Memory.le32 time ++ [Memory.byte why.code]) ∧ OnlyExchange s t)
    ∧ (∀ n, card = .admission n → s.ce.active = none → s.ce.stack = [] → s.ce.waiting = [] →
        Completes .intakeTake s fun t =>
          Settled s t i .ok [Memory.byte n] ∧ t.ce = { s.ce with admission := n })
    ∧ (∀ p, card = .portClear p →
        ((s.port p).feed.latch = false → Completes .intakeTake s fun t =>
          Settled s t i .wrongState [] ∧ OnlyExchange s t)
        ∧ ((s.port p).feed.latch = true → (s.port p).feed.short = true → Completes .intakeTake s fun t =>
          Settled s t i .stillActive [] ∧ OnlyExchange s t)
        ∧ ((s.port p).feed.latch = true → (s.port p).feed.short = false →
            (s.port p).Unheld { slot := i, take := s.ex.takeNo + 1 } → Completes .intakeTake s fun t =>
          Settled s t i .ok [] ∧ (t.port p).feed.latch = false
            ∧ (t.port p).feed.trips = [] ∧ OtherPorts p s t))
    ∧ (∀ b, card = .budget b →
        ((b.thresholds.t3 ≤ b.thresholds.t2 ∨ b.thresholds.t2 ≤ b.thresholds.t1 ∨ b.thresholds.t1 ≤ s.mc.env.floor
              ∨ b.capacity < b.thresholds.t3 ∨ b.keep = false ∧ b.capacity < b.estimate) →
          Completes .intakeTake s fun t =>
            Settled s t i .badOrder [] ∧ OnlyExchange s t)
        ∧ (b.thresholds.t2 < b.thresholds.t3 → b.thresholds.t1 < b.thresholds.t2 → s.mc.env.floor < b.thresholds.t1 →
            b.thresholds.t3 ≤ b.capacity → (b.keep = false → b.estimate ≤ b.capacity) →
            Completes .intakeTake s fun t =>
              Settled s t i .ok (Memory.le16 b.capacity
                  ++ [if t.bu.estimate.isSome then 1 else 0, 0] ++ Memory.le16 (t.bu.estimate.getD 0))
                ∧ t.bu.capacity = some b.capacity
                ∧ t.bu.thresholds = some b.thresholds
                ∧ (b.keep = false → t.bu.estimate = some b.estimate ∧ t.bu.residue = 0)
                ∧ (b.keep = true →
                    (s.bu.estimate = none → t.bu.estimate = none ∧ t.bu.residue = s.bu.residue)
                    ∧ ∀ e, s.bu.estimate = some e →
                      (e ≤ b.capacity → t.bu.estimate = some e ∧ t.bu.residue = s.bu.residue)
                      ∧ (b.capacity < e → t.bu.estimate = some b.capacity ∧ t.bu.residue = 0))
                ∧ t.bu.shed = t.bu.level ∧ t.bu.floorCond = t.bu.belowFloor
                ∧ t.mc.restoreQual = b.restoreQual ∧ t.mc.alarmHours = b.alarmHours
                ∧ t.gw.shedLimit = b.shedLimit ∧ t.gw.graceTime = b.grace))
    ∧ (∀ p n, card = .portSetup p n → (s.port p).feed.started = true → (s.port p).feed.offTime = none →
        (s.port p).sup.deferred = false → (s.port p).setup.threshold ≤ n.threshold →
        (s.port p).Unheld { slot := i, take := s.ex.takeNo + 1 } →
        Completes .intakeTake s fun t =>
          Settled s t i .ok [Memory.byte n.limit] ∧ (t.port p).setup = n ∧ TargetCurrent t p
            ∧ OtherPorts p s t)
    ∧ (∀ p n, card = .portSetup p n → (s.port p).feed.started = true → (s.port p).feed.offTime = none →
        (s.port p).sup.deferred = false → (s.port p).setup.threshold ≤ n.threshold →
        { s.port p with setup := n }.decision = (s.port p).feed.target →
        (∀ g, s.bu.grantOf p = some g →
          (n.limit < g.amount → n.tier = g.tier → Completes .intakeTake s fun t =>
            t.bu = { s.bu.setPlace p (some { g with amount := n.limit }) with due := true }
              ∧ (t.port p).feed = (s.port p).feed ∧ ChargeHanded s t p n.limit)
          ∧ (g.amount < n.limit → s.bu.requestOf p = none →
              ((s.port p).feed.state = .full ∨ (s.port p).feed.state = .duty) → Completes .intakeTake s fun t =>
            t.bu.grantOf p = none
              ∧ Placed { port := p, amount := n.limit, kind := g.kind, tier := n.tier, arrival := s.bu.arrivals + 1 }
                s.bu.queue t.bu.queue
              ∧ t.bu.arrivals = s.bu.arrivals + 1 ∧ t.bu.due = true ∧ (t.port p).feed.state = .waiting
              ∧ (t.port p).feed.duty = none ∧ ChargeHanded s t p 0)
          ∧ (n.limit = g.amount → n.tier ≠ g.tier → Completes .intakeTake s fun t =>
            t.bu = { s.bu.setPlace p (some { g with tier := n.tier }) with due := true }
              ∧ (t.port p).feed = (s.port p).feed)
          ∧ (n.limit = g.amount → n.tier = g.tier → Completes .intakeTake s fun t => t.bu = s.bu))
        ∧ (∀ q, s.bu.grantOf p = none → s.bu.requestOf p = some q →
          (n.limit ≠ q.amount → n.tier = q.tier → Completes .intakeTake s fun t =>
            t.bu = { s.bu with
                queue := s.bu.queue.map fun r => if r.port = p then { r with amount := n.limit } else r
                due := true }
              ∧ (t.port p).feed = (s.port p).feed)
          ∧ (n.limit = q.amount → n.tier ≠ q.tier → Completes .intakeTake s fun t =>
            t.bu.requestOf p = some { q with tier := n.tier }
              ∧ Placed { q with tier := n.tier } (s.bu.without p) t.bu.queue ∧ t.bu.due = true
              ∧ t.bu.arrivals = s.bu.arrivals ∧ (t.port p).feed = (s.port p).feed))
        ∧ (s.bu.grantOf p = none → s.bu.requestOf p = none → Completes .intakeTake s fun t => t.bu = s.bu))
    ∧ (∀ off mask, card = .rest off mask → s.gw.wakes = [] → s.ex.doneEn.getLsbD i.val = false →
        Completes .intakeTake s fun t =>
          Settled s t i .ok ([Memory.byte t.gw.state.code, Memory.byte ((t.gw.grace.map GraceKind.code).getD 0), 0, 0]
              ++ optTime t.gw.graceEnd)
            ∧ t.mc = s.mc ∧ t.bu = s.bu ∧ t.ce = s.ce
            ∧ t.ports = s.ports
            ∧ (s.gw.state = .on → off = true → t.gw = { s.gw with
                state := .grace, grace := some .voluntary, graceEnd := some (s.mc.clock + s.gw.graceTime), rest := .off
                mask := mask })
            ∧ (s.gw.state = .on → off = false → t.gw = { s.gw with rest := .idle, mask := mask })
            ∧ (s.gw.state = .grace → s.gw.grace = some .voluntary → off = true → t.gw = { s.gw with mask := mask })
            ∧ (s.gw.state = .grace → s.gw.grace = some .voluntary → off = false → t.gw = { s.gw with
                state := .on, grace := none, graceEnd := none, rest := .idle, mask := mask })
            ∧ (s.gw.state = .forcedOff ∨ s.gw.state = .restOff ∨ s.gw.state = .bootWait
                ∨ s.gw.state = .grace ∧ s.gw.grace = some .forced → t.gw = s.gw))
    ∧ (card = .clear → Completes .intakeTake s fun t =>
        Settled s t i .ok []
          ∧ t.ce = { s.ce with claims := s.ce.claims ++ [.clear] }
          ∧ ∀ p, s.fitted p = true → (t.port p).box.tasks = (s.port p).box.tasks ++ [.clear])

/-- A waiting rewrite is taken (R75, R76, R90, R155): the record is written whole, between two copies of its next
revision, at its own address and nowhere else, every field of sections 12-1, 12-2, 12-5 and 12-6 at its place there and
0 in the bytes that carry none (R167), in the codes of chapter 12. (The tables rest on the model's readings of logs 20,
23 and 33 where they say so.) -/
def Obligations.RewritesTaken : Prop :=
  CodesOfChapter12
  ∧ (∀ i : Slot, slotBase i = 0x400 + 128 * i.val ∧ resultBase i = 0x440 + 128 * i.val)
  ∧ ∀ s : State,
    (∀ p, ViewId.port p ∈ s.ex.views → Completes (.viewRewrite (.port p)) s fun t =>
      (t.port p).rep.rev = (s.port p).rep.rev + 1 ∧ OtherPorts p s t
        ∧ (∀ k < 128, Memory.read t.ex.mem (portViewBase p + k) =
            (stamped ((s.port p).rep.rev + 1) (s.portBytes p)).getD k 0)
        ∧ HoldsFields t (0x1400 + 128 * p.val) (portTable s p)
        ∧ SameMemoryOutside (portViewBase p) 128 s t ∧ t.ex.slots = s.ex.slots)
    ∧ (ViewId.partStatus ∈ s.ex.views → Completes (.viewRewrite .partStatus) s fun t =>
      t.ex.psrRev = s.ex.psrRev + 1
        ∧ (∀ k < 192, Memory.read t.ex.mem (psrBase + k) = (stamped (s.ex.psrRev + 1) s.psrBytes).getD k 0)
        ∧ HoldsFields t 0 (partTable s)
        ∧ SameMemoryOutside psrBase 192 s t ∧ t.ports = s.ports ∧ t.ex.slots = s.ex.slots)
    ∧ (∀ v c, ViewId.campaign v ∈ s.ex.views → s.ce.shown v = some c → Completes (.viewRewrite (.campaign v)) s fun t =>
      t.ex.campRev[v.val] = s.ex.campRev[v.val] + 1
        ∧ (∀ k < 128, Memory.read t.ex.mem (campViewBase v + k) =
            (stamped (s.ex.campRev[v.val] + 1) (campFields c)).getD k 0)
        ∧ HoldsFields t (0x3400 + 128 * v.val) (campaignTable c (s.ex.campRev[v.val] + 1))
        ∧ (∀ q : Port, Memory.read t.ex.mem (0x3400 + 128 * v.val + 62 + q.val) = Memory.byte c.map[q.val].code)
        ∧ (∀ q : Port, (flyingSet c.flying).getLsbD q.val = true ↔ ∃ e ∈ c.flying, e.port = q)
        ∧ SameMemoryOutside (campViewBase v) 128 s t ∧ t.ports = s.ports ∧ t.ex.slots = s.ex.slots)
    ∧ (s.ex.grantViews ≠ 0 → Completes .grantViewRewrite s fun t =>
      t.bu = { s.bu with grantRev := s.bu.grantRev + 2 }
        ∧ (∀ k < 256, Memory.read t.ex.mem (grantBase + k) = (grantView s.bu).getD k 0)
        ∧ (∀ k < 64, Memory.read t.ex.mem (queueBase + k) = (queueList s.bu).getD k 0)
        ∧ (∀ p : Port, HoldsFields t (0x200 + 4 * p.val) [(0, placeFields s.bu p), (3, [0])])
        ∧ (∀ k < 64, Memory.read t.ex.mem (0x300 + k) =
            Memory.byte ((s.bu.queue[k]?.map (·.port.val)).getD 0xFF))
        ∧ (∀ a, 0x400 ≤ a → Memory.read t.ex.mem a = Memory.read s.ex.mem a)
        ∧ t.ports = s.ports ∧ t.ex.slots = s.ex.slots)
end

