-- ==== Sys2Proof/Laws/Memory.lean ====
section
/-! SUPPORT. The plain memory: a write of a run keeps the canonical form, changes exactly the bytes of the run, and
gives the bytes written. -/

namespace Sys2Proof.Machine.Memory

/-- The canonical form, as an order and a condition on each cell. -/
theorem wf_iff (m : List Host.Cell) :
    wf m = true ↔ m.Pairwise (fun c d => c.1 < d.1) ∧ ∀ c ∈ m, c.2 ≠ unlisted := by
  induction m with
  | nil => simp [wf]
  | cons c rest ih =>
    cases rest with
    | nil => simp [wf]
    | cons d rest =>
      constructor
      · intro h
        simp only [wf, Bool.and_eq_true, bne_iff_ne, decide_eq_true_eq] at h
        obtain ⟨⟨hc, hcd⟩, hr⟩ := h
        obtain ⟨hp, hn⟩ := ih.1 hr
        refine ⟨List.pairwise_cons.2 ⟨?_, hp⟩, ?_⟩
        · intro e he
          rcases List.mem_cons.1 he with rfl | he
          · exact hcd
          · exact Nat.lt_trans hcd ((List.pairwise_cons.1 hp).1 e he)
        · intro e he
          rcases List.mem_cons.1 he with rfl | he
          · exact hc
          · exact hn e he
      · rintro ⟨hp, hn⟩
        simp only [wf, Bool.and_eq_true, bne_iff_ne, decide_eq_true_eq]
        refine ⟨⟨hn c (List.mem_cons_self ..), (List.pairwise_cons.1 hp).1 d (List.mem_cons_self ..)⟩, ?_⟩
        exact ih.2 ⟨(List.pairwise_cons.1 hp).2, fun e he => hn e (List.mem_cons_of_mem _ he)⟩

/-- The cells of a run lie in the run and hold listed bytes. -/
theorem mem_cells (bytes : List Byte) : ∀ a c, c ∈ cells a bytes →
    a ≤ c.1 ∧ c.1 < a + bytes.length ∧ c.2 ≠ unlisted := by
  induction bytes with
  | nil => intro a c h; simp [cells] at h
  | cons b rest ih =>
    intro a c h
    simp only [cells] at h
    split at h
    · have := ih (a + 1) c h
      simp only [List.length_cons]
      exact ⟨by omega, by omega, this.2.2⟩
    · next hb =>
      rcases List.mem_cons.1 h with rfl | h
      · exact ⟨Nat.le_refl _, by simp, hb⟩
      · have := ih (a + 1) c h
        simp only [List.length_cons]
        exact ⟨by omega, by omega, this.2.2⟩

theorem cells_pairwise (bytes : List Byte) : ∀ a, (cells a bytes).Pairwise (fun c d => c.1 < d.1) := by
  induction bytes with
  | nil => intro a; simp [cells]
  | cons b rest ih =>
    intro a
    simp only [cells]
    split
    · exact ih _
    · refine List.pairwise_cons.2 ⟨fun d hd => ?_, ih _⟩
      have := (mem_cells rest (a + 1) d hd).1
      simp only
      omega

/-- A write keeps the canonical form. -/
theorem wf_write (m : List Host.Cell) (a : Nat) (bytes : List Byte) (h : wf m = true) :
    wf (write m a bytes) = true := by
  obtain ⟨hp, hn⟩ := (wf_iff m).1 h
  refine (wf_iff _).2 ⟨?_, ?_⟩
  · unfold write
    refine List.pairwise_append.2 ⟨List.pairwise_append.2 ⟨hp.filter _, cells_pairwise bytes a, ?_⟩,
      hp.filter _, ?_⟩
    · intro c hc d hd
      have h1 := (List.mem_filter.1 hc).2
      have h2 := (mem_cells bytes a d hd).1
      simp only [decide_eq_true_eq] at h1
      omega
    · intro c hc d hd
      have h2 := (List.mem_filter.1 hd).2
      simp only [decide_eq_true_eq] at h2
      rcases List.mem_append.1 hc with hc | hc
      · have h1 := (List.mem_filter.1 hc).2
        simp only [decide_eq_true_eq] at h1
        omega
      · have h1 := (mem_cells bytes a c hc).2.1
        omega
  · intro c hc
    unfold write at hc
    rcases List.mem_append.1 hc with hc | hc
    · rcases List.mem_append.1 hc with hc | hc
      · exact hn c (List.mem_filter.1 hc).1
      · exact (mem_cells bytes a c hc).2.2
    · exact hn c (List.mem_filter.1 hc).1

theorem wf_nil : wf [] = true := rfl

/-- A read of a list in two parts. -/
theorem read_append_left (l r : List Host.Cell) (x : Nat) (h : ∀ c ∈ r, c.1 ≠ x) : read (l ++ r) x = read l x := by
  induction l with
  | nil =>
    induction r with
    | nil => rfl
    | cons c r ih =>
      have hc := h c (List.mem_cons_self ..)
      simp only [List.nil_append, read, hc, if_false] at ih ⊢
      exact ih fun d hd => h d (List.mem_cons_of_mem _ hd)
  | cons c l ih =>
    simp only [List.cons_append, read]
    split
    · rfl
    · exact ih

theorem read_append_right (l r : List Host.Cell) (x : Nat) (h : ∀ c ∈ l, c.1 ≠ x) : read (l ++ r) x = read r x := by
  induction l with
  | nil => rfl
  | cons c l ih =>
    have hc := h c (List.mem_cons_self ..)
    simp only [List.cons_append, read, hc, if_false]
    exact ih fun d hd => h d (List.mem_cons_of_mem _ hd)

theorem read_filter (m : List Host.Cell) (want : Host.Cell → Bool) (x : Nat)
    (h : ∀ c : Host.Cell, c.1 = x → want c = true) : read (m.filter want) x = read m x := by
  induction m with
  | nil => rfl
  | cons c m ih =>
    simp only [List.filter_cons]
    by_cases hx : c.1 = x
    · simp [h c hx, read, hx]
    · split
      · simp only [read, hx, if_false]; exact ih
      · simp only [read, hx, if_false]; exact ih

/-- A byte outside the run reads as before. -/
theorem read_write_out (m : List Host.Cell) (a : Nat) (bytes : List Byte) (x : Nat)
    (h : x < a ∨ a + bytes.length ≤ x) : read (write m a bytes) x = read m x := by
  unfold write
  rcases h with h | h
  · rw [read_append_left, read_append_left, read_filter]
    · intro c hc; simp only [decide_eq_true_eq]; omega
    · intro c hc; have := (mem_cells bytes a c hc).1; omega
    · intro c hc
      have := (List.mem_filter.1 hc).2
      simp only [decide_eq_true_eq] at this
      omega
  · rw [read_append_right, read_filter]
    · intro c hc; simp only [decide_eq_true_eq]; omega
    · intro c hc
      rcases List.mem_append.1 hc with hc | hc
      · have := (List.mem_filter.1 hc).2
        simp only [decide_eq_true_eq] at this
        omega
      · have := (mem_cells bytes a c hc).2.1
        omega

theorem read_cells (bytes : List Byte) : ∀ a i (hi : i < bytes.length), read (cells a bytes) (a + i) = bytes[i] := by
  induction bytes with
  | nil => intro a i hi; simp at hi
  | cons b rest ih =>
    intro a i hi
    have below : ∀ x, x < a + 1 → read (cells (a + 1) rest) x = unlisted := by
      intro x hx
      have : read ([] ++ cells (a + 1) rest) x = read [] x :=
        read_append_left [] _ x fun c hc => by have := (mem_cells rest (a + 1) c hc).1; omega
      simpa [read] using this
    cases i with
    | zero =>
      simp only [cells]
      split
      · next hb => simp only [Nat.add_zero, List.getElem_cons_zero]; rw [below a (by omega), hb]
      · simp [read]
    | succ i =>
      have h' : a + (i + 1) = a + 1 + i := by omega
      have hr := ih (a + 1) i (by simpa using hi)
      simp only [cells]
      split
      · rw [h', hr]; rfl
      · have hne : ¬ a = a + (i + 1) := by omega
        simp only [read, hne, if_false]
        rw [h', hr]
        rfl

/-- A byte of the run reads as written. -/
theorem read_write_in (m : List Host.Cell) (a : Nat) (bytes : List Byte) (i : Nat) (hi : i < bytes.length) :
    read (write m a bytes) (a + i) = bytes[i] := by
  unfold write
  rw [read_append_left, read_append_right]
  · exact read_cells bytes a i hi
  · intro c hc
    have := (List.mem_filter.1 hc).2
    simp only [decide_eq_true_eq] at this
    omega
  · intro c hc
    have := (List.mem_filter.1 hc).2
    simp only [decide_eq_true_eq] at this
    omega

end Sys2Proof.Machine.Memory
end

