-- ==== Sys2Proof/Laws/State.lean ====
section
/-! SUPPORT. What each updater of State leaves and gives: one lemma for each field and update, true by
computation. -/

namespace Sys2Proof.Machine

/-! ### Ports -/

@[simp] theorem port_setPort (s : State) (p : Port) (r : PortRecord) : (s.setPort p r).port p = r := by
  simp [State.port, State.setPort]

theorem port_setPort_ne (s : State) (p q : Port) (r : PortRecord) (h : q ≠ p) :
    (s.setPort p r).port q = s.port q := by
  have h' : p.val ≠ q.val := fun e => h (Fin.ext e.symm)
  simp [State.port, State.setPort, h']

@[simp] theorem port_onPort (s : State) (p : Port) (f : PortRecord → PortRecord) :
    (s.onPort p f).port p = f (s.port p) := by simp [State.onPort]

theorem port_onPort_ne (s : State) (p q : Port) (f : PortRecord → PortRecord) (h : q ≠ p) :
    (s.onPort p f).port q = s.port q := port_setPort_ne s p q _ h

@[simp] theorem port_onFitted (s : State) (f : PortRecord → PortRecord) (p : Port) :
    (s.onFitted f).port p = if s.fitted p then f (s.port p) else s.port p := by
  simp [State.port, State.onFitted, State.fitted]

@[simp] theorem setPort_ms (s : State) (p : Port) (r : PortRecord) : (s.setPort p r).ms = s.ms := rfl
@[simp] theorem setPort_pending (s : State) (p : Port) (r : PortRecord) :
    (s.setPort p r).pending = s.pending := rfl
@[simp] theorem setPort_mc (s : State) (p : Port) (r : PortRecord) : (s.setPort p r).mc = s.mc := rfl
@[simp] theorem setPort_bu (s : State) (p : Port) (r : PortRecord) : (s.setPort p r).bu = s.bu := rfl
@[simp] theorem setPort_ce (s : State) (p : Port) (r : PortRecord) : (s.setPort p r).ce = s.ce := rfl
@[simp] theorem setPort_gw (s : State) (p : Port) (r : PortRecord) : (s.setPort p r).gw = s.gw := rfl
@[simp] theorem setPort_ex (s : State) (p : Port) (r : PortRecord) : (s.setPort p r).ex = s.ex := rfl

@[simp] theorem onPort_ms (s : State) (p : Port) (f : PortRecord → PortRecord) : (s.onPort p f).ms = s.ms := rfl
@[simp] theorem onPort_pending (s : State) (p : Port) (f : PortRecord → PortRecord) :
    (s.onPort p f).pending = s.pending := rfl
@[simp] theorem onPort_mc (s : State) (p : Port) (f : PortRecord → PortRecord) : (s.onPort p f).mc = s.mc := rfl
@[simp] theorem onPort_bu (s : State) (p : Port) (f : PortRecord → PortRecord) : (s.onPort p f).bu = s.bu := rfl
@[simp] theorem onPort_ce (s : State) (p : Port) (f : PortRecord → PortRecord) : (s.onPort p f).ce = s.ce := rfl
@[simp] theorem onPort_gw (s : State) (p : Port) (f : PortRecord → PortRecord) : (s.onPort p f).gw = s.gw := rfl
@[simp] theorem onPort_ex (s : State) (p : Port) (f : PortRecord → PortRecord) : (s.onPort p f).ex = s.ex := rfl

@[simp] theorem onFitted_ms (s : State) (f : PortRecord → PortRecord) : (s.onFitted f).ms = s.ms := by
  simp only [State.onFitted]
@[simp] theorem onFitted_pending (s : State) (f : PortRecord → PortRecord) :
    (s.onFitted f).pending = s.pending := by
  simp only [State.onFitted]
@[simp] theorem onFitted_mc (s : State) (f : PortRecord → PortRecord) : (s.onFitted f).mc = s.mc := by
  simp only [State.onFitted]
@[simp] theorem onFitted_bu (s : State) (f : PortRecord → PortRecord) : (s.onFitted f).bu = s.bu := by
  simp only [State.onFitted]
@[simp] theorem onFitted_ce (s : State) (f : PortRecord → PortRecord) : (s.onFitted f).ce = s.ce := by
  simp only [State.onFitted]
@[simp] theorem onFitted_gw (s : State) (f : PortRecord → PortRecord) : (s.onFitted f).gw = s.gw := by
  simp only [State.onFitted]
@[simp] theorem onFitted_ex (s : State) (f : PortRecord → PortRecord) : (s.onFitted f).ex = s.ex := by
  simp only [State.onFitted]

/-! ### The other blocks -/

@[simp] theorem setMc_mc (s : State) (m : ModeCtl) : (s.setMc m).mc = m := rfl
@[simp] theorem setMc_ms (s : State) (m : ModeCtl) : (s.setMc m).ms = s.ms := rfl
@[simp] theorem setMc_pending (s : State) (m : ModeCtl) : (s.setMc m).pending = s.pending := rfl
@[simp] theorem setMc_bu (s : State) (m : ModeCtl) : (s.setMc m).bu = s.bu := rfl
@[simp] theorem setMc_ce (s : State) (m : ModeCtl) : (s.setMc m).ce = s.ce := rfl
@[simp] theorem setMc_gw (s : State) (m : ModeCtl) : (s.setMc m).gw = s.gw := rfl
@[simp] theorem setMc_ex (s : State) (m : ModeCtl) : (s.setMc m).ex = s.ex := rfl
@[simp] theorem setMc_port (s : State) (m : ModeCtl) (p : Port) : (s.setMc m).port p = s.port p := rfl

@[simp] theorem setBu_bu (s : State) (b : Budget) : (s.setBu b).bu = b := rfl
@[simp] theorem setBu_ms (s : State) (b : Budget) : (s.setBu b).ms = s.ms := rfl
@[simp] theorem setBu_pending (s : State) (b : Budget) : (s.setBu b).pending = s.pending := rfl
@[simp] theorem setBu_mc (s : State) (b : Budget) : (s.setBu b).mc = s.mc := rfl
@[simp] theorem setBu_ce (s : State) (b : Budget) : (s.setBu b).ce = s.ce := rfl
@[simp] theorem setBu_gw (s : State) (b : Budget) : (s.setBu b).gw = s.gw := rfl
@[simp] theorem setBu_ex (s : State) (b : Budget) : (s.setBu b).ex = s.ex := rfl
@[simp] theorem setBu_port (s : State) (b : Budget) (p : Port) : (s.setBu b).port p = s.port p := rfl

@[simp] theorem setCe_ce (s : State) (c : Engine) : (s.setCe c).ce = c := rfl
@[simp] theorem setCe_ms (s : State) (c : Engine) : (s.setCe c).ms = s.ms := rfl
@[simp] theorem setCe_pending (s : State) (c : Engine) : (s.setCe c).pending = s.pending := rfl
@[simp] theorem setCe_mc (s : State) (c : Engine) : (s.setCe c).mc = s.mc := rfl
@[simp] theorem setCe_bu (s : State) (c : Engine) : (s.setCe c).bu = s.bu := rfl
@[simp] theorem setCe_gw (s : State) (c : Engine) : (s.setCe c).gw = s.gw := rfl
@[simp] theorem setCe_ex (s : State) (c : Engine) : (s.setCe c).ex = s.ex := rfl
@[simp] theorem setCe_port (s : State) (c : Engine) (p : Port) : (s.setCe c).port p = s.port p := rfl

@[simp] theorem setGw_gw (s : State) (g : Gateway) : (s.setGw g).gw = g := rfl
@[simp] theorem setGw_ms (s : State) (g : Gateway) : (s.setGw g).ms = s.ms := rfl
@[simp] theorem setGw_pending (s : State) (g : Gateway) : (s.setGw g).pending = s.pending := rfl
@[simp] theorem setGw_mc (s : State) (g : Gateway) : (s.setGw g).mc = s.mc := rfl
@[simp] theorem setGw_bu (s : State) (g : Gateway) : (s.setGw g).bu = s.bu := rfl
@[simp] theorem setGw_ce (s : State) (g : Gateway) : (s.setGw g).ce = s.ce := rfl
@[simp] theorem setGw_ex (s : State) (g : Gateway) : (s.setGw g).ex = s.ex := rfl
@[simp] theorem setGw_port (s : State) (g : Gateway) (p : Port) : (s.setGw g).port p = s.port p := rfl

@[simp] theorem setEx_ex (s : State) (e : Exchange) : (s.setEx e).ex = e := rfl
@[simp] theorem setEx_ms (s : State) (e : Exchange) : (s.setEx e).ms = s.ms := rfl
@[simp] theorem setEx_pending (s : State) (e : Exchange) : (s.setEx e).pending = s.pending := rfl
@[simp] theorem setEx_mc (s : State) (e : Exchange) : (s.setEx e).mc = s.mc := rfl
@[simp] theorem setEx_bu (s : State) (e : Exchange) : (s.setEx e).bu = s.bu := rfl
@[simp] theorem setEx_ce (s : State) (e : Exchange) : (s.setEx e).ce = s.ce := rfl
@[simp] theorem setEx_gw (s : State) (e : Exchange) : (s.setEx e).gw = s.gw := rfl
@[simp] theorem setEx_port (s : State) (e : Exchange) (p : Port) : (s.setEx e).port p = s.port p := rfl

/-! ### Events -/

theorem event_due (s : State) (f : State → State) : s.event true f = .next (s.finish (f s)) := rfl
theorem event_not_due (s : State) (f : State → State) : s.event false f = .next s := rfl

theorem portEvent_due (s : State) (p : Port) (due : PortRecord → Bool) (f : State → State)
    (h : s.fitted p = true) (hd : due (s.port p) = true) :
    s.portEvent p due f = .next (s.finish (f s)) := by
  simp [State.portEvent, State.event, h, hd]

theorem portEvent_not_due (s : State) (p : Port) (due : PortRecord → Bool) (f : State → State)
    (hd : due (s.port p) = false) : s.portEvent p due f = .next s := by
  simp [State.portEvent, State.event, hd]

@[simp] theorem finish_ms (s t : State) : (s.finish t).ms = t.ms := rfl
@[simp] theorem finish_pending (s t : State) : (s.finish t).pending = t.pending := rfl
@[simp] theorem finish_mc (s t : State) : (s.finish t).mc = t.mc := rfl
@[simp] theorem finish_bu (s t : State) : (s.finish t).bu = t.bu := rfl
@[simp] theorem finish_ce (s t : State) : (s.finish t).ce = t.ce := rfl
@[simp] theorem finish_ports (s t : State) : (s.finish t).ports = t.ports := rfl
@[simp] theorem finish_port (s t : State) (p : Port) : (s.finish t).port p = t.port p := rfl
@[simp] theorem finish_fitted (s t : State) (p : Port) : (s.finish t).fitted p = t.fitted p := rfl
@[simp] theorem finish_clock (s t : State) : (s.finish t).clock = t.clock := rfl

/-! Of the exchange port an event's end writes only the line and the waiting rewrites. -/

@[simp] theorem finish_ex_mem (s t : State) : (s.finish t).ex.mem = t.ex.mem := rfl
@[simp] theorem finish_ex_slots (s t : State) : (s.finish t).ex.slots = t.ex.slots := rfl
@[simp] theorem finish_ex_intake (s t : State) : (s.finish t).ex.intake = t.ex.intake := rfl
@[simp] theorem finish_ex_takeNo (s t : State) : (s.finish t).ex.takeNo = t.ex.takeNo := rfl
@[simp] theorem finish_ex_doneEn (s t : State) : (s.finish t).ex.doneEn = t.ex.doneEn := rfl
@[simp] theorem finish_ex_partEvent (s t : State) : (s.finish t).ex.partEvent = t.ex.partEvent := rfl
@[simp] theorem finish_ex_partEventEn (s t : State) : (s.finish t).ex.partEventEn = t.ex.partEventEn := rfl
@[simp] theorem finish_ex_wakeCause (s t : State) : (s.finish t).ex.wakeCause = t.ex.wakeCause := rfl
@[simp] theorem finish_ex_psrRev (s t : State) : (s.finish t).ex.psrRev = t.ex.psrRev := rfl
@[simp] theorem finish_ex_campRev (s t : State) : (s.finish t).ex.campRev = t.ex.campRev := rfl
@[simp] theorem finish_ex_spi (s t : State) : (s.finish t).ex.spi = t.ex.spi := rfl
@[simp] theorem finish_ex_spiOut (s t : State) : (s.finish t).ex.spiOut = t.ex.spiOut := rfl

/-- Of the gateway feed controller an event's end writes only the waiting wake conditions. -/
@[simp] theorem finish_gw (s t : State) :
    (s.finish t).gw = { t.gw with wakes := t.gw.wakes ++ risenAttention s t } := rfl

/-- After an event ATTN stands as its sources give it (R156). -/
theorem finish_attn (s t : State) : (s.finish t).ex.attn = (s.finish t).attnLevel := rfl

end Sys2Proof.Machine
end

