-- ==== Sys2Proof/Laws/Port.lean ====
section
/-! SUPPORT. What the operations on one port can touch: `PortWork p s t` says once everything that the line, feed and
item operations of port `p` leave as it was, and each operation has one lemma. -/

namespace Sys2Proof.Machine

/-- Work on port `p` took `s` to `t`: time, the queue, the engine, the other ports, the budget unit but for the port's
own places, the mode controller but for the census, the gateway feed controller but for its waiting conditions, and the
exchange port but for completions and part events stand as they were. -/
structure PortWork (p : Port) (s t : State) : Prop where
  ms : t.ms = s.ms
  pending : t.pending = s.pending
  ce : t.ce = s.ce
  others : ∀ q, q ≠ p → t.port q = s.port q
  bu : BudgetFrame p s.bu t.bu
  mc : ∃ c, t.mc = { s.mc with census := c }
  gw : ∃ w, t.gw = { s.gw with wakes := w }
  ex : ∃ m sl pe, t.ex = { s.ex with mem := m, slots := sl, partEvent := pe }
  results : ResultsOnly s t
  canonical : Memory.wf s.ex.mem = true → Memory.wf t.ex.mem = true

/-! ### The budget unit -/

namespace BudgetFrame

theorem refl (p : Port) (b : Budget) : BudgetFrame p b b := ⟨⟨_, _, _, _, rfl⟩, fun _ _ => rfl, rfl⟩

theorem trans {p : Port} {b b' b'' : Budget} (h : BudgetFrame p b b') (k : BudgetFrame p b' b'') :
    BudgetFrame p b b'' := by
  obtain ⟨⟨_, _, _, _, h1⟩, h2, h3⟩ := h
  obtain ⟨⟨t, q, n, d, k1⟩, k2, k3⟩ := k
  exact ⟨⟨t, q, n, d, by rw [k1, h1]⟩, fun q hq => (k2 q hq).trans (h2 q hq), k3.trans h3⟩

/-- A change of the queue alone, the other ports' requests standing. -/
theorem queue (p : Port) (b : Budget) (q : List GrantReq) (n : Nat) (d : Bool)
    (h : (q.filter fun r => r.port != p) = b.without p) :
    BudgetFrame p b { b with queue := q, arrivals := n, due := d } := ⟨⟨_, _, _, _, rfl⟩, fun _ _ => rfl, h⟩

/-- A change of the port's own place in the grant table. -/
theorem place (p : Port) (b : Budget) (g : Option Grant) (d : Bool) :
    BudgetFrame p b { b.setPlace p g with due := d } := by
  refine ⟨⟨_, _, _, _, rfl⟩, fun q hq => ?_, rfl⟩
  have hv : p.val ≠ q.val := fun e => hq (Fin.ext e.symm)
  simp [Budget.grantOf, Budget.setPlace, hv]

theorem filter_placeReq (p : Port) (q : GrantReq) (hq : q.port = p) (l : List GrantReq) :
    ((placeReq q l).filter fun r => r.port != p) = l.filter fun r => r.port != p := by
  induction l with
  | nil => simp [placeReq, hq]
  | cons h rest ih =>
    simp only [placeReq]
    split
    · rw [List.filter_cons]
      simp [hq]
    · simp only [List.filter_cons, ih]

theorem request (p : Port) (b : Budget) (a : Nat) (k : GrantKind) (t : Nat) : BudgetFrame p b (b.request p a k t) :=
  queue p b _ _ _ (filter_placeReq p _ rfl _)

theorem withdraw (p : Port) (b : Budget) : BudgetFrame p b (b.withdraw p) :=
  queue p b _ b.arrivals _ (by simp [Budget.without, List.filter_filter])

theorem release (p : Port) (b : Budget) : BudgetFrame p b (b.release p) := place p b _ _

theorem drop (p : Port) (b : Budget) : BudgetFrame p b (b.drop p) := by
  unfold Budget.drop
  split
  · exact release p b
  · split
    · exact withdraw p b
    · exact refl p b

theorem changeGrant (p : Port) (b : Budget) (f : Grant → Grant) : BudgetFrame p b (b.changeGrant p f) := place p b _ _

theorem changeReq (p : Port) (b : Budget) (f : GrantReq → GrantReq) (hf : ∀ q, (f q).port = q.port) :
    BudgetFrame p b (b.changeReq p f) := by
  unfold Budget.changeReq
  split
  · next q hq =>
    have hp : q.port = p := by simpa using List.find?_some hq
    refine queue p b _ b.arrivals _ ?_
    rw [filter_placeReq p _ ((hf q).trans hp)]
    simp [Budget.without, List.filter_filter]
  · exact refl p b

theorem changeKind (p : Port) (b : Budget) (k : GrantKind) : BudgetFrame p b (b.changeKind p k) := by
  unfold Budget.changeKind
  split
  · split
    · exact refl p b
    · exact changeGrant p b _
  · split
    · exact refl p b
    · exact changeReq p b _ fun _ => rfl
  · exact refl p b

theorem changeReqAmount (p : Port) (b : Budget) (n : Nat) : BudgetFrame p b (b.changeReqAmount p n) := by
  refine queue p b _ b.arrivals _ ?_
  unfold Budget.without
  induction b.queue with
  | nil => rfl
  | cons q rest ih =>
    simp only [List.map_cons, List.filter_cons, ih]
    by_cases h : q.port = p <;> simp [h]

end BudgetFrame

namespace ResultsOnly

/-- Slots and memory that stand. -/
theorem same {s t : State} (hs : t.ex.slots = s.ex.slots) (hm : t.ex.mem = s.ex.mem) : ResultsOnly s t :=
  ⟨fun i => Or.inl (by rw [hs]), fun a => Or.inl (by rw [hm])⟩

theorem trans {s t u : State} (h : ResultsOnly s t) (k : ResultsOnly t u) : ResultsOnly s u := by
  have step : ∀ i : Slot, t.ex.slots[i.val].isTaken = true → s.ex.slots[i.val].isTaken = true := by
    intro i hi
    rcases h.1 i with e | ⟨_, e⟩
    · rwa [← e]
    · rw [e] at hi
      cases hi
  have done : ∀ i : Slot, t.ex.slots[i.val] = .done → u.ex.slots[i.val] = .done := by
    intro i hi
    rcases k.1 i with e | ⟨_, e⟩
    · rw [e, hi]
    · exact e
  refine ⟨fun i => ?_, fun a => ?_⟩
  · rcases k.1 i with e | ⟨ht, e⟩
    · rw [e]
      exact h.1 i
    · exact Or.inr ⟨step i ht, e⟩
  · rcases k.2 a with e | ⟨i, ht, e, ha⟩
    · rw [e]
      rcases h.2 a with e' | ⟨i, ht, e', ha⟩
      · exact Or.inl e'
      · exact Or.inr ⟨i, ht, done i e', ha⟩
    · exact Or.inr ⟨i, step i ht, e, ha⟩

end ResultsOnly

theorem resultHalf_length (st : Status) (tag : Half) (time : Time) (fields : List Byte) :
    (resultHalf st tag time fields).length = 64 := by
  simp [resultHalf, Memory.zeros, List.length_take]
  omega

namespace PortWork

theorem refl (p : Port) (s : State) : PortWork p s s :=
  ⟨rfl, rfl, rfl, fun _ _ => rfl, .refl p _, ⟨_, rfl⟩, ⟨_, rfl⟩, ⟨_, _, _, rfl⟩, .same rfl rfl, id⟩

theorem trans {p : Port} {s t u : State} (h : PortWork p s t) (k : PortWork p t u) : PortWork p s u := by
  obtain ⟨c, hc⟩ := h.mc
  obtain ⟨c', hc'⟩ := k.mc
  obtain ⟨w, hw⟩ := h.gw
  obtain ⟨w', hw'⟩ := k.gw
  obtain ⟨m, sl, pe, hx⟩ := h.ex
  obtain ⟨m', sl', pe', hx'⟩ := k.ex
  exact ⟨k.ms.trans h.ms, k.pending.trans h.pending, k.ce.trans h.ce,
    fun q hq => (k.others q hq).trans (h.others q hq), h.bu.trans k.bu,
    ⟨c', by rw [hc', hc]⟩, ⟨w', by rw [hw', hw]⟩, ⟨m', sl', pe', by rw [hx', hx]⟩,
    h.results.trans k.results, k.canonical ∘ h.canonical⟩

theorem clock {p : Port} {s t : State} (h : PortWork p s t) : t.clock = s.clock := by
  obtain ⟨c, hc⟩ := h.mc
  simp [State.clock, hc]

theorem fitted {p : Port} {s t : State} (h : PortWork p s t) (q : Port) : t.fitted q = s.fitted q := by
  obtain ⟨c, hc⟩ := h.mc
  simp [State.fitted, hc]

theorem onPort (s : State) (p : Port) (f : PortRecord → PortRecord) : PortWork p s (s.onPort p f) :=
  ⟨rfl, rfl, rfl, fun q hq => port_onPort_ne s p q f hq, .refl p _, ⟨_, rfl⟩, ⟨_, rfl⟩, ⟨_, _, _, rfl⟩, .same rfl rfl, id⟩

theorem setBu (p : Port) (s : State) (b : Budget) (h : BudgetFrame p s.bu b) : PortWork p s (s.setBu b) :=
  ⟨rfl, rfl, rfl, fun _ _ => rfl, h, ⟨_, rfl⟩, ⟨_, rfl⟩, ⟨_, _, _, rfl⟩, .same rfl rfl, id⟩

theorem raise (p : Port) (s : State) (e : PartEvent) : PortWork p s (s.raise e) := by
  unfold State.raise
  dsimp only
  split
  · exact ⟨rfl, rfl, rfl, fun _ _ => rfl, .refl p _, ⟨_, rfl⟩, ⟨_, rfl⟩, ⟨_, _, _, rfl⟩, .same rfl rfl, id⟩
  · exact ⟨rfl, rfl, rfl, fun _ _ => rfl, .refl p _, ⟨_, rfl⟩, ⟨_, rfl⟩, ⟨_, _, _, rfl⟩, .same rfl rfl, id⟩

theorem finishSlot (p : Port) (s : State) (i : Slot) (tag : Half) (st : Status) (fs : List Byte)
    (h : s.ex.slots[i.val].isTaken = true) : PortWork p s (s.finishSlot i tag st fs) := by
  have hm : ∀ t : State, t.ex.mem = Memory.write s.ex.mem (resultBase i) (resultHalf st tag s.clock fs) →
      t.ex.slots = s.ex.slots.set i.val .done →
      ResultsOnly s t ∧ (Memory.wf s.ex.mem = true → Memory.wf t.ex.mem = true) := by
    intro t em es
    have ei : t.ex.slots[i.val] = .done := by simp [es]
    refine ⟨⟨fun j => ?_, fun a => ?_⟩, fun hw => by rw [em]; exact Memory.wf_write _ _ _ hw⟩
    · by_cases hj : j = i
      · subst hj
        exact Or.inr ⟨h, ei⟩
      · have hv : i.val ≠ j.val := fun e => hj (Fin.ext e.symm)
        exact Or.inl (by simp [es, hv])
    · by_cases ha : resultBase i ≤ a ∧ a < resultBase i + 64
      · exact Or.inr ⟨i, h, ei, ha⟩
      · refine Or.inl ?_
        rw [em]
        refine Memory.read_write_out _ _ _ _ ?_
        rw [resultHalf_length]
        omega
  unfold State.finishSlot
  dsimp only
  split
  · exact ⟨rfl, rfl, rfl, fun _ _ => rfl, .refl p _, ⟨_, rfl⟩, ⟨_, rfl⟩, ⟨_, _, _, rfl⟩, (hm _ rfl rfl).1, (hm _ rfl rfl).2⟩
  · exact ⟨rfl, rfl, rfl, fun _ _ => rfl, .refl p _, ⟨_, rfl⟩, ⟨_, rfl⟩, ⟨_, _, _, rfl⟩, (hm _ rfl rfl).1, (hm _ rfl rfl).2⟩

theorem complete (p : Port) (s : State) (t : TaskRef) (st : Status) (fs : List Byte) :
    PortWork p s (s.complete t st fs) := by
  unfold State.complete
  split
  · next hs =>
    split
    · exact finishSlot p s _ _ _ _ (by rw [hs]; rfl)
    · exact refl p s
  all_goals exact refl p s

theorem completeAll (p : Port) (ts : List TaskRef) (st : Status) (fs : List Byte) :
    ∀ s : State, PortWork p s (s.completeAll ts st fs) := by
  induction ts with
  | nil => exact fun s => refl p s
  | cons t rest ih => exact fun s => (complete p s t st fs).trans (ih _)

theorem census (p : Port) (s : State) (f : Census → Census) : PortWork p s (s.census f) := by
  unfold State.census
  split
  · have h1 : PortWork p s (s.setMc { s.mc with census := f s.mc.census }) :=
      ⟨rfl, rfl, rfl, fun _ _ => rfl, .refl p _, ⟨_, rfl⟩, ⟨_, rfl⟩, ⟨_, _, _, rfl⟩, .same rfl rfl, id⟩
    refine h1.trans ?_
    unfold State.censusSettle
    dsimp only
    split
    · have h2 : ∀ u : State, ∀ c, PortWork p u (u.setMc { u.mc with census := c }) :=
        fun u c => ⟨rfl, rfl, rfl, fun _ _ => rfl, .refl p _, ⟨_, rfl⟩, ⟨_, rfl⟩, ⟨_, _, _, rfl⟩, .same rfl rfl, id⟩
      exact (h2 _ _).trans (raise p _ _)
    · exact refl p _
  · exact refl p s

theorem censusLost (p : Port) (s : State) (n : Nat) : PortWork p s (s.censusLost n) := by
  unfold State.censusLost
  split
  · exact refl p s
  · exact census p s _

theorem displaced (s : State) (p : Port) (q : Request) : PortWork p s (s.displaced p q) :=
  (onPort s p _).trans (censusLost p _ _)

theorem join {s u : State} {p : Port} {q : Request} (h : s.join p q = some u) : PortWork p s u := by
  unfold State.join at h
  split at h
  · next l old _ =>
    injection h with h
    subst h
    cases old with
    | none => exact onPort s p _
    | some o => exact (onPort s p _).trans (displaced _ p o)
  · cases h

theorem sleepDuty (s : State) (p : Port) : PortWork p s (s.sleepDuty p) := by
  unfold State.sleepDuty
  dsimp only
  split
  · split
    · next t ht => exact (join ht).trans (onPort t p _)
    · exact refl p s
  · exact refl p s

theorem settlePort (s : State) (p : Port) : PortWork p s (s.settlePort p) :=
  (((sleepDuty s p).trans (onPort _ p _)).trans (sleepDuty _ p)).trans (onPort _ p _)

theorem report (s : State) (p : Port) (m : Report) : PortWork p s (s.report p m) := onPort s p _

theorem itemGone (s : State) (p : Port) : PortWork p s (s.itemGone p) := by
  unfold State.itemGone
  split
  · exact (onPort s p _).trans (report _ p _)
  · exact refl p s

theorem itemLost (s : State) (p : Port) : PortWork p s (s.itemLost p) := by
  unfold State.itemLost
  split
  · dsimp only
    split
    · exact itemGone s p
    · exact (report s p _).trans (itemGone _ p)
  · exact refl p s

theorem loseLine (s : State) (p : Port) (new : TermState) : PortWork p s (s.loseLine p new) :=
  (((onPort s p _).trans (itemLost _ p)).trans (completeAll p _ _ _ _)).trans (censusLost p _ _)

theorem loseBias (s : State) (p : Port) : PortWork p s (s.loseBias p) :=
  (loseLine s p .unknown).trans (onPort _ p _)

theorem dropGrant (s : State) (p : Port) : PortWork p s (s.dropGrant p) := setBu p s _ (.drop p s.bu)

theorem beginRestart (s : State) (p : Port) (c : RestartCause) : PortWork p s (s.beginRestart p c) :=
  ((dropGrant s p).trans (loseBias _ p)).trans (onPort _ p _)

theorem settleRestart (s : State) (p : Port) : PortWork p s (s.settleRestart p) := by
  unfold State.settleRestart
  dsimp only
  split
  · exact refl p s
  · split
    · exact onPort s p _
    · split
      · exact beginRestart s p _
      · exact refl p s

theorem enterOff (s : State) (p : Port) : PortWork p s (s.enterOff p) :=
  (((dropGrant s p).trans (loseBias _ p)).trans (onPort _ p _)).trans (completeAll p _ _ _ _)

theorem enterBias (s : State) (p : Port) (f : FeedState) : PortWork p s (s.enterBias p f) :=
  (dropGrant s p).trans (onPort _ p _)

theorem seekFeed (s : State) (p : Port) (t : Target) (k : GrantKind) : PortWork p s (s.seekFeed p t k) := by
  unfold State.seekFeed
  split
  · exact (setBu p s _ (.changeKind p _ k)).trans (onPort _ p _)
  · split
    · exact setBu p s _ (.changeKind p _ k)
    · exact (setBu p s _ (.request p _ _ _ _)).trans (onPort _ p _)

theorem moveToward (s : State) (p : Port) (t : Target) : PortWork p s (s.moveToward p t) := by
  unfold State.moveToward
  split
  · exact enterOff s p
  · exact enterBias s p _
  · exact enterBias s p _
  · exact enterBias s p _
  · exact refl p s
  · exact seekFeed s p _ _
  · exact seekFeed s p _ _

theorem evaluate (s : State) (p : Port) : PortWork p s (s.evaluate p) := by
  unfold State.evaluate
  dsimp only
  split
  · exact refl p s
  · exact (onPort s p _).trans (moveToward _ p _)

theorem takeInput (s : State) (p : Port) (f : PortRecord → PortRecord) : PortWork p s (s.takeInput p f) :=
  (onPort s p _).trans (evaluate _ p)

theorem applyLimit (s : State) (p : Port) : PortWork p s (s.applyLimit p) := by
  unfold State.applyLimit
  dsimp only
  split
  · split
    · exact (setBu p s _ (.changeGrant p _ _)).trans (onPort _ p _)
    · split
      · exact (setBu p s _ ((BudgetFrame.release p _).trans (.request p _ _ _ _))).trans (onPort _ p _)
      · exact refl p s
  · split
    · exact refl p s
    · exact setBu p s _ (.changeReqAmount p _ _)
  · exact refl p s

theorem fixResult (s : State) (p : Port) (num : Word) (k : ResCode) : PortWork p s (s.fixResult p num k) :=
  ((onPort s p _).trans (evaluate _ p)).trans (report _ p _)

theorem finishItem (s : State) (p : Port) (num : Word) (k : ResCode) : PortWork p s (s.finishItem p num k) :=
  (fixResult s p num k).trans (itemGone _ p)

theorem abortTest (s : State) (p : Port) (i : Item) (k : ResCode) : PortWork p s (s.abortTest p i k) := by
  unfold State.abortTest
  split
  · exact (onPort s p _).trans (finishItem _ p _ _)
  · exact ((onPort s p _).trans (fixResult _ p _ _)).trans (onPort _ p _)
  · exact ((onPort s p _).trans (fixResult _ p _ _)).trans (onPort _ p _)
  all_goals exact refl p s

theorem abortWake (s : State) (p : Port) (i : Item) (k : ResCode) : PortWork p s (s.abortWake p i k) := by
  unfold State.abortWake
  split
  · exact (onPort s p _).trans (finishItem _ p _ _)
  · exact (onPort s p _).trans (finishItem _ p _ _)
  · exact (onPort s p _).trans (finishItem _ p _ _)
  all_goals exact refl p s

theorem abortByDemand (s : State) (p : Port) : PortWork p s (s.abortByDemand p) := by
  unfold State.abortByDemand
  split
  · split
    · exact abortTest s p _ _
    · exact refl p s
  · exact refl p s

theorem getD_join (s : State) (p : Port) (q : Request) : PortWork p s ((s.join p q).getD s) := by
  cases h : s.join p q with
  | none => exact refl p s
  | some u => exact join h

theorem startItem (s : State) (p : Port) (num : Word) (v : ViewNo) (w : Work) :
    PortWork p s (s.startItem p num v w) := by
  unfold State.startItem
  split
  · exact ((onPort s p _).trans (evaluate _ p)).trans (getD_join _ p _)
  · exact (onPort s p _).trans (getD_join _ p _)

theorem taskEnding (s : State) (p : Port) (t : TaskRef) (b : Body) (e : Ending) :
    PortWork p s (s.taskEnding p t b e) := by
  unfold State.taskEnding
  repeat' split
  all_goals exact complete p s _ _ _

theorem itemEnding (s : State) (p : Port) (num : Word) (b : Body) (e : Ending) :
    PortWork p s (s.itemEnding p num b e) := by
  unfold State.itemEnding
  split
  · split
    · split
      · unfold State.testEnding
        split
        · exact onPort s p _
        · exact finishItem s p _ _
        · exact finishItem s p _ _
        · exact refl p s
      · unfold State.wakeEnding
        split
        · exact onPort s p _
        · exact finishItem s p _ _
        · exact finishItem s p _ _
        · exact refl p s
      · exact finishItem s p _ _
      · exact itemGone s p
      all_goals exact refl p s
    · exact refl p s
  · exact refl p s

theorem ownerEnding (s : State) (p : Port) (b : Body) (e : Ending) (o : Owner) :
    PortWork p s (s.ownerEnding p b e o) := by
  unfold State.ownerEnding
  split
  · exact taskEnding s p _ _ _
  · exact itemEnding s p _ _ _
  · exact onPort s p _
  · split <;> exact census p s _
  all_goals exact refl p s

theorem ownersEnding (p : Port) (b : Body) (e : Ending) (os : List Owner) :
    ∀ s : State, PortWork p s (os.foldl (fun u o => u.ownerEnding p b e o) s) := by
  induction os with
  | nil => exact fun s => refl p s
  | cons o rest ih => exact fun s => (ownerEnding s p b e o).trans (ih _)

theorem endRequest (s : State) (p : Port) (q : Request) (e : Ending) : PortWork p s (s.endRequest p q e) :=
  (((onPort s p _).trans (evaluate _ p)).trans (ownersEnding p _ _ _ _)).trans (settleRestart _ p)

theorem endFlight (s : State) (p : Port) (e : Ending) : PortWork p s (s.endFlight p e) := by
  unfold State.endFlight
  split
  · exact (endRequest s p _ e).trans (settlePort _ p)
  · exact refl p s

theorem takeResult (s : State) (p : Port) (a b c : Half) (d : Byte) : PortWork p s (s.takeResult p a b c d) := by
  unfold State.takeResult
  dsimp only
  refine PortWork.trans ?_ (settleRestart _ p)
  split
  · exact ((onPort s p _).trans (onPort _ p _)).trans (finishItem _ p _ _)
  · exact (onPort s p _).trans (evaluate _ p)

theorem expireWindow (s : State) (p : Port) : PortWork p s (s.expireWindow p) := by
  unfold State.expireWindow
  dsimp only
  split
  · exact ((onPort s p _).trans (fixResult _ p _ _)).trans (onPort _ p _)
  · exact (onPort s p _).trans (evaluate _ p)

theorem takeClaim (s : State) (p : Port) (t : TaskRef) (f : State → State) (hf : ∀ u, PortWork p u (f u)) :
    PortWork p s (s.takeClaim p t f) := by
  unfold State.takeClaim
  dsimp only
  split
  · exact ((onPort s p _).trans (onPort _ p _)).trans (complete p _ _ _ _)
  · exact (onPort s p _).trans (hf _)

/-- With the event's end, port work is within the frame of a port's command. -/
theorem finish {p : Port} {s t : State} (h : PortWork p s t) : PortFrame p s (s.finish t) := by
  obtain ⟨w, hw⟩ := h.gw
  obtain ⟨m, sl, pe, hx⟩ := h.ex
  have hg : (s.finish t).gw = { s.gw with wakes := w ++ risenAttention s t } := by
    rw [finish_gw, hw]
  have he : (s.finish t).ex = { t.ex with
      attn := (s.finish t).ex.attn
      views := (s.finish t).ex.views
      grantViews := (s.finish t).ex.grantViews } := rfl
  exact ⟨h.ms, h.pending, h.ce, h.others, h.bu, h.mc, ⟨_, hg⟩, ⟨m, sl, pe, _, _, _, by rw [he, hx]⟩, h.results⟩

end PortWork

end Sys2Proof.Machine
end

