-- ==== Sys2Proof/Laws/Settle.lean ====
section
/-! SUPPORT. What the end of a port's event settles: of the port's record only the line, the awake-until time, the poll
due time and the timers; nothing at the budget unit; and the target that an evaluation leaves. -/

namespace Sys2Proof.Machine

/-- From `r` to `r'` only the line, the awake-until time, the poll due time and the timers have moved. -/
structure LineMoved (r r' : PortRecord) : Prop where
  setup : r'.setup = r.setup
  feed : r'.feed = r.feed
  term : ∃ a d, r'.term = { r.term with awakeUntil := a, awakeDue := d }
  dem : r'.dem = r.dem
  sup : ∃ d, r'.sup = { r.sup with pollDue := d }
  bat : r'.bat = r.bat
  rep : r'.rep = r.rep
  pin : r'.pin = r.pin
  got : r'.got = r.got
  box : r'.box = r.box

namespace LineMoved

theorem refl (r : PortRecord) : LineMoved r r := ⟨rfl, rfl, ⟨_, _, rfl⟩, rfl, ⟨_, rfl⟩, rfl, rfl, rfl, rfl, rfl⟩

theorem trans {r r' r'' : PortRecord} (h : LineMoved r r') (k : LineMoved r' r'') : LineMoved r r'' := by
  obtain ⟨a, d, ht⟩ := h.term
  obtain ⟨a', d', ht'⟩ := k.term
  obtain ⟨e, hs⟩ := h.sup
  obtain ⟨e', hs'⟩ := k.sup
  exact ⟨k.setup.trans h.setup, k.feed.trans h.feed, ⟨a', d', by rw [ht', ht]⟩, k.dem.trans h.dem,
    ⟨e', by rw [hs', hs]⟩, k.bat.trans h.bat, k.rep.trans h.rep, k.pin.trans h.pin, k.got.trans h.got,
    k.box.trans h.box⟩

theorem begin (now : Ms) (q : Request) (r : PortRecord) : LineMoved r (r.begin now q) :=
  ⟨rfl, rfl, ⟨_, _, rfl⟩, rfl, ⟨_, rfl⟩, rfl, rfl, rfl, rfl, rfl⟩

theorem line (r : PortRecord) (l : Line) : LineMoved r { r with line := l } :=
  ⟨rfl, rfl, ⟨_, _, rfl⟩, rfl, ⟨_, rfl⟩, rfl, rfl, rfl, rfl, rfl⟩

theorem serveLine (now : Ms) (r : PortRecord) : LineMoved r (r.serveLine now) := by
  unfold PortRecord.serveLine
  split
  · exact refl r
  · split
    · exact (line r _).trans (begin now _ _)
    · split
      · exact refl r
      · split
        · exact (line r _).trans (begin now _ _)
        · split
          · exact (line r _).trans (begin now _ _)
          · split
            · exact (line r _).trans (begin now _ _)
            · exact refl r

theorem sleepQueued (r : PortRecord) : LineMoved r r.sleepQueued :=
  ⟨rfl, rfl, ⟨_, _, rfl⟩, rfl, ⟨_, rfl⟩, rfl, rfl, rfl, rfl, rfl⟩

theorem settleTimers (now : Ms) (r : PortRecord) : LineMoved r (r.settleTimers now) :=
  ⟨rfl, rfl, ⟨_, _, rfl⟩, rfl, ⟨_, rfl⟩, rfl, rfl, rfl, rfl, rfl⟩

/-- The decision looks at nothing that has moved. -/
theorem decision {r r' : PortRecord} (h : LineMoved r r') : r'.decision = r.decision := by
  obtain ⟨a, d, ht⟩ := h.term
  simp only [PortRecord.decision, PortRecord.lifelineEligible, PortRecord.row9, PortRecord.feedingEligible,
    PortRecord.shed, PortRecord.demandStands, PortRecord.onBattery, h.setup, h.feed, h.dem, h.got, ht]
  rfl

end LineMoved

theorem census_port (s : State) (f : Census → Census) (p : Port) : (s.census f).port p = s.port p := by
  unfold State.census State.censusSettle State.raise State.wake
  dsimp only
  repeat' split
  all_goals rfl

theorem census_bu (s : State) (f : Census → Census) : (s.census f).bu = s.bu := by
  unfold State.census State.censusSettle State.raise State.wake
  dsimp only
  repeat' split
  all_goals rfl

theorem censusLost_port (s : State) (n : Nat) (p : Port) : (s.censusLost n).port p = s.port p := by
  unfold State.censusLost
  split
  · rfl
  · exact census_port s _ p

theorem censusLost_bu (s : State) (n : Nat) : (s.censusLost n).bu = s.bu := by
  unfold State.censusLost
  split
  · rfl
  · exact census_bu s _

theorem join_moved {s u : State} {p : Port} {q : Request} (h : s.join p q = some u) :
    LineMoved (s.port p) (u.port p) ∧ u.bu = s.bu := by
  unfold State.join at h
  split at h
  · next l old _ =>
    injection h with h
    subst h
    cases old with
    | none => exact ⟨by simpa using LineMoved.line _ _, rfl⟩
    | some o =>
      simp only [State.displaced]
      rw [censusLost_port, censusLost_bu]
      simp only [port_onPort, onPort_bu, and_true]
      exact ⟨rfl, rfl, ⟨_, _, rfl⟩, rfl, ⟨_, rfl⟩, rfl, rfl, rfl, rfl, rfl⟩
  · cases h

theorem sleepDuty_moved (s : State) (p : Port) :
    LineMoved (s.port p) ((s.sleepDuty p).port p) ∧ (s.sleepDuty p).bu = s.bu := by
  unfold State.sleepDuty
  dsimp only
  split
  · split
    · next t ht =>
      have h := join_moved ht
      simp only [port_onPort, onPort_bu]
      exact ⟨h.1.trans (LineMoved.sleepQueued _), h.2⟩
    · exact ⟨LineMoved.refl _, rfl⟩
  · exact ⟨LineMoved.refl _, rfl⟩

/-- Settling a port moves its line, its awake-until time, its poll due time and its timers, and nothing else of the
record; the budget unit stands. -/
theorem settlePort_moved (s : State) (p : Port) :
    LineMoved (s.port p) ((s.settlePort p).port p) ∧ (s.settlePort p).bu = s.bu := by
  unfold State.settlePort
  have h1 := sleepDuty_moved s p
  have h2 := sleepDuty_moved ((s.sleepDuty p).onPort p (PortRecord.serveLine s.ms)) p
  simp only [port_onPort, onPort_bu] at h2 ⊢
  exact ⟨((h1.1.trans (LineMoved.serveLine _ _)).trans h2.1).trans (LineMoved.settleTimers _ _), h2.2.trans h1.2⟩

theorem complete_port (s : State) (t : TaskRef) (st : Status) (fs : List Byte) (p : Port) :
    (s.complete t st fs).port p = s.port p := by
  unfold State.complete State.finishSlot State.wake
  dsimp only
  repeat' split
  all_goals rfl

theorem complete_bu (s : State) (t : TaskRef) (st : Status) (fs : List Byte) : (s.complete t st fs).bu = s.bu := by
  unfold State.complete State.finishSlot State.wake
  dsimp only
  repeat' split
  all_goals rfl

theorem completeAll_port (ts : List TaskRef) (st : Status) (fs : List Byte) (p : Port) :
    ∀ s : State, (s.completeAll ts st fs).port p = s.port p := by
  induction ts with
  | nil => exact fun s => rfl
  | cons t rest ih => exact fun s => (ih (s.complete t st fs)).trans (complete_port s t st fs p)

theorem completeAll_bu (ts : List TaskRef) (st : Status) (fs : List Byte) :
    ∀ s : State, (s.completeAll ts st fs).bu = s.bu := by
  induction ts with
  | nil => exact fun s => rfl
  | cons t rest ih => exact fun s => (ih (s.complete t st fs)).trans (complete_bu s t st fs)

/-- Moving the feed touches no input of the decision. -/
theorem moveFeed_decision (f : FeedState) (r : PortRecord) : (r.moveFeed f).decision = r.decision := by
  unfold PortRecord.moveFeed PortRecord.handCharge
  dsimp only
  repeat' split
  all_goals rfl

theorem restoreBias_decision (c : Time) (r : PortRecord) : (r.restoreBias c).decision = r.decision := by
  unfold PortRecord.restoreBias
  repeat' split
  all_goals rfl

theorem moveFeed_target (f : FeedState) (r : PortRecord) : (r.moveFeed f).feed.target = r.feed.target := by
  unfold PortRecord.moveFeed PortRecord.handCharge
  dsimp only
  repeat' split
  all_goals rfl

theorem restoreBias_target (c : Time) (r : PortRecord) : (r.restoreBias c).feed.target = r.feed.target := by
  unfold PortRecord.restoreBias
  repeat' split
  all_goals rfl

theorem moveFeed_state (f : FeedState) (r : PortRecord) : (r.moveFeed f).feed.state = f := by
  unfold PortRecord.moveFeed PortRecord.handCharge
  dsimp only
  repeat' split
  all_goals rfl

theorem enterFed_decision (c : Time) (t : Target) (r : PortRecord) : (r.enterFed c t).decision = r.decision := by
  cases t <;> simp only [PortRecord.enterFed, PortRecord.enterFull, PortRecord.enterDuty, moveFeed_decision]
  split
  · rfl
  · exact moveFeed_decision _ _

theorem enterFed_target (c : Time) (t : Target) (r : PortRecord) :
    (r.enterFed c t).feed.target = r.feed.target := by
  cases t <;> simp only [PortRecord.enterFed, PortRecord.enterFull, PortRecord.enterDuty, moveFeed_target]
  split <;> rfl

theorem itemGone_decision (s : State) (p : Port) :
    ((s.itemGone p).port p).decision = (s.port p).decision
      ∧ ((s.itemGone p).port p).feed = (s.port p).feed ∧ ((s.itemGone p).port p).setup = (s.port p).setup := by
  unfold State.itemGone State.report
  split
  · refine ⟨?_, ?_, ?_⟩ <;> simp only [port_onPort] <;> rfl
  · exact ⟨rfl, rfl, rfl⟩

theorem itemLost_kept (s : State) (p : Port) :
    ((s.itemLost p).port p).feed = (s.port p).feed ∧ ((s.itemLost p).port p).setup = (s.port p).setup := by
  unfold State.itemLost
  split
  · dsimp only
    split
    · exact (itemGone_decision s p).2
    · next i _ _ =>
      have h := (itemGone_decision (s.report p (.result i.num .abortedRestart)) p).2
      have hr : ∀ m, ((s.report p m).port p).feed = (s.port p).feed
          ∧ ((s.report p m).port p).setup = (s.port p).setup := fun m => by
        refine ⟨?_, ?_⟩ <;> simp only [State.report, port_onPort]
      exact ⟨h.1.trans (hr _).1, h.2.trans (hr _).2⟩
  · exact ⟨rfl, rfl⟩

theorem loseBias_setup (s : State) (p : Port) :
    ((s.loseBias p).port p).setup = (s.port p).setup
      ∧ ((s.loseBias p).port p).feed.target = (s.port p).feed.target := by
  have mark : ∀ (r : PortRecord) b, (r.mark b).setup = r.setup ∧ (r.mark b).feed = r.feed := fun _ _ => ⟨rfl, rfl⟩
  have h := itemLost_kept (s.onPort p (PortRecord.cutLine s.clock .unknown)) p
  simp only [port_onPort] at h
  simp only [State.loseBias, State.loseLine, port_onPort]
  unfold PortRecord.cutBias
  dsimp only
  split
  · simp only [(mark _ _).1, (mark _ _).2, censusLost_port, completeAll_port, h.1, h.2]
    exact ⟨rfl, rfl⟩
  · simp only [censusLost_port, completeAll_port, h.1, h.2]
    exact ⟨rfl, rfl⟩

/-- An evaluation of a port that has made its first one leaves the target that the decision then gives (R37). -/
theorem evaluate_target (s : State) (p : Port) (h : (s.port p).feed.started = true)
    (hc : (s.port p).decision ≠ .cycling) : TargetCurrent (s.evaluate p) p := by
  unfold TargetCurrent State.evaluate
  dsimp only
  split
  · next hq =>
    simp only [h, Bool.not_true, Bool.false_or, beq_iff_eq] at hq
    exact hq.symm
  · have hd : ∀ (r : PortRecord) t, ({ r with feed := { r.feed with target := t } } : PortRecord).decision = r.decision :=
      fun _ _ => rfl
    have hoff : (s.port p).decision = .off → (s.port p).setup.wish = .disabled := by
      intro ho
      unfold PortRecord.decision at ho
      split at ho
      · next hw => simpa using hw
      · exfalso
        revert ho
        unfold PortRecord.row9 Policy.target
        repeat' split
        all_goals intro ho; cases ho
    unfold State.moveToward
    split
    · next ho =>
      have hw := hoff ho
      simp only [ho]
      have hb := loseBias_setup ((s.onPort p fun r =>
        { r with feed := { r.feed with target := .off } }).dropGrant p) p
      simp only [State.dropGrant, setBu_port, port_onPort] at hb
      simp only [State.enterOff, completeAll_port, port_onPort, State.dropGrant]
      rw [hb.2]
      unfold PortRecord.decision
      simp only [hb.1, hw, beq_self_eq_true, if_true]
    · simp only [State.enterBias, State.dropGrant, port_onPort, setBu_port, moveFeed_target, restoreBias_target,
        moveFeed_decision, restoreBias_decision, hd]
    · simp only [State.enterBias, State.dropGrant, port_onPort, setBu_port, moveFeed_target, restoreBias_target,
        moveFeed_decision, restoreBias_decision, hd]
    · simp only [State.enterBias, State.dropGrant, port_onPort, setBu_port, moveFeed_target, restoreBias_target,
        moveFeed_decision, restoreBias_decision, hd]
    · next hcy => exact absurd hcy hc
    all_goals
      unfold State.seekFeed
      split
      · simp only [port_onPort, setBu_port, enterFed_target, enterFed_decision, hd]
      · split
        · simp only [port_onPort, setBu_port, hd]
        · simp only [port_onPort, setBu_port, moveFeed_target, restoreBias_target, moveFeed_decision,
            restoreBias_decision, hd]

end Sys2Proof.Machine
end

