-- ==== Sys2Proof/Laws/Steady.lean ====
section
/-! SUPPORT. The fields of a port record that no line, feed or item operation moves, and one lemma for each
operation that says so. -/

namespace Sys2Proof.Machine

/-- From `r` to `r'` the setup, the figures of other blocks, the inputs, the battery health record, the latch, the trip
history, the measured current with its second, the first evaluation, the demand's start and count, the figures a STATUS
reports, the last answer time, the enable word, the revision and the claims stand, and no status bit has gone. -/
structure Steady (r r' : PortRecord) : Prop where
  setup : r'.setup = r.setup
  got : r'.got = r.got
  pin : r'.pin = r.pin
  bat : r'.bat = r.bat
  latch : r'.feed.latch = r.feed.latch
  trips : r'.feed.trips = r.feed.trips
  measured : r'.feed.measured = r.feed.measured
  refreshed : r'.feed.refreshed = r.feed.refreshed
  started : r'.feed.started = r.feed.started
  start : r'.dem.start = r.dem.start
  count : r'.dem.count = r.dem.count
  flags : r'.term.flags = r.term.flags
  charge : r'.term.charge = r.term.charge
  volts : r'.term.volts = r.term.volts
  lastAnswer : r'.term.lastAnswer = r.term.lastAnswer
  enable : r'.rep.enable = r.rep.enable
  rev : r'.rep.rev = r.rep.rev
  status : r'.rep.status &&& r.rep.status = r.rep.status
  box : ∃ o, r'.box = { r.box with out := o }

/-- A status word keeps every bit when more are set. -/
theorem or_and_self (a b : Half) : (a ||| b) &&& a = a := by
  apply BitVec.eq_of_getLsbD_eq
  intro i hi
  simp only [BitVec.getLsbD_and, BitVec.getLsbD_or]
  cases a.getLsbD i <;> simp

theorem and_trans {a b c : Half} (h : b &&& a = a) (k : c &&& b = b) : c &&& a = a := by
  rw [← h, ← BitVec.and_assoc, k]

namespace Steady

theorem refl (r : PortRecord) : Steady r r :=
  ⟨rfl, rfl, rfl, rfl, rfl, rfl, rfl, rfl, rfl, rfl, rfl, rfl, rfl, rfl, rfl, rfl, rfl, BitVec.and_self, ⟨_, rfl⟩⟩

theorem trans {r r' r'' : PortRecord} (h : Steady r r') (k : Steady r' r'') : Steady r r'' := by
  obtain ⟨o, ho⟩ := h.box
  obtain ⟨o', ho'⟩ := k.box
  exact ⟨k.setup.trans h.setup, k.got.trans h.got, k.pin.trans h.pin, k.bat.trans h.bat, k.latch.trans h.latch,
    k.trips.trans h.trips, k.measured.trans h.measured, k.refreshed.trans h.refreshed, k.started.trans h.started, k.start.trans h.start,
    k.count.trans h.count, k.flags.trans h.flags, k.charge.trans h.charge, k.volts.trans h.volts,
    k.lastAnswer.trans h.lastAnswer, k.enable.trans h.enable, k.rev.trans h.rev, and_trans h.status k.status,
    ⟨o', by rw [ho', ho]⟩⟩

theorem ofMoved {r r' : PortRecord} (h : LineMoved r r') : Steady r r' := by
  obtain ⟨a, d, ht⟩ := h.term
  exact ⟨h.setup, h.got, h.pin, h.bat, by rw [h.feed], by rw [h.feed], by rw [h.feed], by rw [h.feed],
    by rw [h.feed],
    by rw [h.dem], by rw [h.dem], by rw [ht], by rw [ht], by rw [ht], by rw [ht], by rw [h.rep], by rw [h.rep],
    by rw [h.rep, BitVec.and_self], ⟨r.box.out, h.box⟩⟩

/-! ### Operations on a record -/

theorem mark (r : PortRecord) (b : StatusBit) : Steady r (r.mark b) :=
  { refl r with status := or_and_self _ _ }

theorem marked {r r' : PortRecord} (h : Steady r r') (b : StatusBit) : Steady r (r'.mark b) := h.trans (mark r' b)

theorem line (r : PortRecord) (l : Line) : Steady r { r with line := l } := { refl r with }

theorem hold (r : PortRecord) (h : Bool) : Steady r { r with feed := { r.feed with hold := h } } := { refl r with }

theorem target (r : PortRecord) (t : Target) : Steady r { r with feed := { r.feed with target := t } } :=
  { refl r with }

theorem work (r : PortRecord) (l : Line) (h : Bool) :
    Steady r { r with line := l, feed := { r.feed with hold := h } } := { refl r with }

theorem sup (r : PortRecord) (u : Supervision) : Steady r { r with sup := u } := { refl r with }

theorem awake (r : PortRecord) (a : Option Time) (d : Bool) :
    Steady r { r with term := { r.term with awakeUntil := a, awakeDue := d } } := { refl r with }

theorem off (r : PortRecord) (u : Supervision) : Steady r { r with
    feed := { r.feed with state := .off, duty := none, cooling := none, offTime := none }
    sup := u } := { refl r with }

theorem handCharge (r : PortRecord) (c : Nat) : Steady r (r.handCharge c) := by
  unfold PortRecord.handCharge
  split
  · exact line r _
  · exact refl r

theorem handHalt (r : PortRecord) (o : Owner) : Steady r (r.handHalt o) := by
  unfold PortRecord.handHalt
  repeat' split
  all_goals first | exact refl r | exact line r _

theorem suspendPoll (r : PortRecord) (c : Time) : Steady r (r.suspendPoll c) := by
  unfold PortRecord.suspendPoll
  split
  · exact { refl r with }
  · exact refl r

theorem moveFeed (r : PortRecord) (f : FeedState) : Steady r (r.moveFeed f) := by
  unfold PortRecord.moveFeed
  dsimp only
  split
  · refine trans ?_ (handCharge _ _)
    exact { refl r with }
  · split
    · refine trans ?_ (handCharge _ _)
      exact { refl r with }
    · exact { refl r with }

theorem restoreBias (r : PortRecord) (c : Time) : Steady r (r.restoreBias c) := by
  unfold PortRecord.restoreBias
  split
  · exact refl r
  · split
    · exact { refl r with }
    · exact { refl r with status := or_and_self _ _ }

theorem cutLine (r : PortRecord) (c : Time) (n : TermState) : Steady r (r.cutLine c n) := { refl r with }

theorem cutBias (r : PortRecord) : Steady r r.cutBias := by
  unfold PortRecord.cutBias
  dsimp only
  split
  · refine marked ?_ _
    exact { refl r with }
  · exact { refl r with }

theorem cycle (r : PortRecord) (now : Ms) (clock : Time) (c : RestartCause) : Steady r (r.cycle now clock c) := by
  unfold PortRecord.cycle
  refine marked ?_ _
  exact { refl r with }

theorem enterDuty (r : PortRecord) (c : Time) (e : Nat) : Steady r (r.enterDuty c e) := by
  unfold PortRecord.enterDuty
  split
  · exact refl r
  · exact (moveFeed r .duty).trans { refl _ with }

theorem enterFed (r : PortRecord) (c : Time) (t : Target) : Steady r (r.enterFed c t) := by
  cases t with
  | full k => exact moveFeed r .full
  | duty e k => exact enterDuty r c e
  | _ => exact refl r

theorem setPhase (r : PortRecord) (ph : ItemPhase) : Steady r (r.setPhase ph) := line r _

theorem answered (r : PortRecord) (n : TermState) : Steady r (r.answered n) := by
  unfold PortRecord.answered
  dsimp only
  split
  · refine marked ?_ _
    exact { refl r with }
  · exact { refl r with }

theorem leaveTesting (r : PortRecord) : Steady r r.leaveTesting := by
  unfold PortRecord.leaveTesting
  split
  · exact { refl r with }
  · exact refl r

theorem takeSilence (r : PortRecord) : Steady r r.takeSilence := by
  unfold PortRecord.takeSilence
  dsimp only
  split
  · exact { refl r with }
  · refine marked ?_ _
    exact { refl r with }

end Steady

/-! ### Operations on the state -/

/-- Port `p`'s record is steady from `s` to `t`. -/
abbrev SteadyAt (p : Port) (s t : State) : Prop := Steady (s.port p) (t.port p)

namespace SteadyAt

theorem ofPort {p : Port} {s t : State} (h : t.port p = s.port p) : SteadyAt p s t := by
  unfold SteadyAt
  rw [h]
  exact Steady.refl _

theorem onPort {p : Port} (s : State) {f : PortRecord → PortRecord} (h : Steady (s.port p) (f (s.port p))) :
    SteadyAt p s (s.onPort p f) := by
  unfold SteadyAt
  rw [port_onPort]
  exact h

theorem complete (p : Port) (s : State) (t : TaskRef) (st : Status) (fs : List Byte) :
    SteadyAt p s (s.complete t st fs) := ofPort (complete_port s t st fs p)

theorem completeAll (p : Port) (ts : List TaskRef) (st : Status) (fs : List Byte) (s : State) :
    SteadyAt p s (s.completeAll ts st fs) := ofPort (completeAll_port ts st fs p s)

theorem census (p : Port) (s : State) (f : Census → Census) : SteadyAt p s (s.census f) := ofPort (census_port s f p)

theorem censusLost (p : Port) (s : State) (n : Nat) : SteadyAt p s (s.censusLost n) :=
  ofPort (censusLost_port s n p)

theorem join {s u : State} {p : Port} {q : Request} (h : s.join p q = some u) : SteadyAt p s u :=
  Steady.ofMoved (join_moved h).1

theorem settlePort (s : State) (p : Port) : SteadyAt p s (s.settlePort p) :=
  Steady.ofMoved (settlePort_moved s p).1

theorem report (s : State) (p : Port) (m : Report) : SteadyAt p s (s.report p m) :=
  onPort s { Steady.refl _ with box := ⟨_, rfl⟩ }

theorem itemGone (s : State) (p : Port) : SteadyAt p s (s.itemGone p) := by
  unfold State.itemGone
  split
  · exact (onPort s (Steady.line _ _)).trans (report _ p _)
  · exact Steady.refl _

theorem itemLost (s : State) (p : Port) : SteadyAt p s (s.itemLost p) := by
  unfold State.itemLost
  split
  · dsimp only
    split
    · exact itemGone s p
    · exact (report s p _).trans (itemGone _ p)
  · exact Steady.refl _

theorem loseLine (s : State) (p : Port) (new : TermState) : SteadyAt p s (s.loseLine p new) :=
  (((onPort s (Steady.cutLine _ _ _)).trans (itemLost _ p)).trans (completeAll p _ _ _ _)).trans (censusLost p _ _)

theorem loseBias (s : State) (p : Port) : SteadyAt p s (s.loseBias p) :=
  (loseLine s p .unknown).trans (onPort _ (Steady.cutBias _))

theorem setBu (s : State) (p : Port) (b : Budget) : SteadyAt p s (s.setBu b) := ofPort rfl

theorem beginRestart (s : State) (p : Port) (c : RestartCause) : SteadyAt p s (s.beginRestart p c) :=
  ((setBu s p _).trans (loseBias _ p)).trans (onPort _ (Steady.cycle _ _ _ _))

theorem settleRestart (s : State) (p : Port) : SteadyAt p s (s.settleRestart p) := by
  unfold State.settleRestart
  dsimp only
  split
  · exact Steady.refl _
  · split
    · exact onPort s (Steady.sup _ _)
    · split
      · exact beginRestart s p _
      · exact Steady.refl _

theorem enterOff (s : State) (p : Port) : SteadyAt p s (s.enterOff p) :=
  (((setBu s p _).trans (loseBias _ p)).trans (onPort _ (Steady.off _ _))).trans (completeAll p _ _ _ _)

theorem enterBias (s : State) (p : Port) (f : FeedState) : SteadyAt p s (s.enterBias p f) :=
  (setBu s p _).trans (onPort _ ((Steady.restoreBias _ _).trans (Steady.moveFeed _ _)))

theorem seekFeed (s : State) (p : Port) (t : Target) (k : GrantKind) : SteadyAt p s (s.seekFeed p t k) := by
  unfold State.seekFeed
  split
  · exact (setBu s p _).trans (onPort _ (Steady.enterFed _ _ _))
  · split
    · exact setBu s p _
    · exact (setBu s p _).trans (onPort _ ((Steady.restoreBias _ _).trans (Steady.moveFeed _ _)))

theorem moveToward (s : State) (p : Port) (t : Target) : SteadyAt p s (s.moveToward p t) := by
  unfold State.moveToward
  split
  · exact enterOff s p
  · exact enterBias s p _
  · exact enterBias s p _
  · exact enterBias s p _
  · exact Steady.refl _
  · exact seekFeed s p _ _
  · exact seekFeed s p _ _

theorem evaluate (s : State) (p : Port) : SteadyAt p s (s.evaluate p) := by
  unfold State.evaluate
  dsimp only
  split
  · exact Steady.refl _
  · exact (onPort s (Steady.target _ _)).trans (moveToward _ p _)

theorem fixResult (s : State) (p : Port) (num : Word) (k : ResCode) : SteadyAt p s (s.fixResult p num k) :=
  ((onPort s (Steady.hold _ _)).trans (evaluate _ p)).trans (report _ p _)

theorem finishItem (s : State) (p : Port) (num : Word) (k : ResCode) : SteadyAt p s (s.finishItem p num k) :=
  (fixResult s p num k).trans (itemGone _ p)

theorem letGo (s : State) (p : Port) (gone : Owner → Bool) :
    SteadyAt p s (s.onPort p fun r => { r with line := r.line.letGo gone }) := onPort s (Steady.line _ _)

theorem itemHalts (s : State) (p : Port) (num : Word) : SteadyAt p s (s.itemHalts p num) :=
  onPort s ((Steady.handHalt _ _).trans (Steady.setPhase _ _))

theorem abortTest (s : State) (p : Port) (i : Item) (k : ResCode) : SteadyAt p s (s.abortTest p i k) := by
  unfold State.abortTest
  split
  · exact (letGo s p _).trans (finishItem _ p _ _)
  · exact ((letGo s p _).trans (fixResult _ p _ _)).trans (itemHalts _ p _)
  · exact ((onPort s (Steady.line _ _)).trans (fixResult _ p _ _)).trans (itemHalts _ p _)
  all_goals exact Steady.refl _

theorem abortWake (s : State) (p : Port) (i : Item) (k : ResCode) : SteadyAt p s (s.abortWake p i k) := by
  unfold State.abortWake
  split
  · exact (letGo s p _).trans (finishItem _ p _ _)
  · exact (letGo s p _).trans (finishItem _ p _ _)
  · exact (onPort s (Steady.awake _ _ _)).trans (finishItem _ p _ _)
  all_goals exact Steady.refl _

theorem abortByDemand (s : State) (p : Port) : SteadyAt p s (s.abortByDemand p) := by
  unfold State.abortByDemand
  split
  · split
    · exact abortTest s p _ _
    · exact Steady.refl _
  · exact Steady.refl _

theorem getD_join (s : State) (p : Port) (q : Request) : SteadyAt p s ((s.join p q).getD s) := by
  cases h : s.join p q with
  | none => exact Steady.refl _
  | some u => exact join h

theorem startItem (s : State) (p : Port) (num : Word) (v : ViewNo) (w : Work) :
    SteadyAt p s (s.startItem p num v w) := by
  unfold State.startItem
  split
  · exact ((onPort s (Steady.work _ _ _)).trans (evaluate _ p)).trans (getD_join _ p _)
  · exact (onPort s (Steady.line _ _)).trans (getD_join _ p _)

theorem taskEnding (s : State) (p : Port) (t : TaskRef) (b : Body) (e : Ending) :
    SteadyAt p s (s.taskEnding p t b e) := by
  unfold State.taskEnding
  repeat' split
  all_goals exact complete p s _ _ _

theorem testEnding (s : State) (p : Port) (num : Word) (d : Nat) (e : Ending) :
    SteadyAt p s (s.testEnding p num d e) := by
  unfold State.testEnding
  split
  · exact onPort s (Steady.line _ _)
  · exact finishItem s p _ _
  · exact finishItem s p _ _
  · exact Steady.refl _

theorem wakeEnding (s : State) (p : Port) (num : Word) (e : Ending) : SteadyAt p s (s.wakeEnding p num e) := by
  unfold State.wakeEnding
  split
  · exact onPort s (Steady.setPhase _ _)
  · exact finishItem s p _ _
  · exact finishItem s p _ _
  · exact Steady.refl _

theorem itemEnding (s : State) (p : Port) (num : Word) (b : Body) (e : Ending) :
    SteadyAt p s (s.itemEnding p num b e) := by
  unfold State.itemEnding
  split
  · split
    · split
      · exact testEnding s p _ _ _
      · exact wakeEnding s p _ _
      · exact finishItem s p _ _
      · exact itemGone s p
      all_goals exact Steady.refl _
    · exact Steady.refl _
  · exact Steady.refl _

theorem ownerEnding (s : State) (p : Port) (b : Body) (e : Ending) (o : Owner) :
    SteadyAt p s (s.ownerEnding p b e o) := by
  unfold State.ownerEnding
  split
  · exact taskEnding s p _ _ _
  · exact itemEnding s p _ _ _
  · exact onPort s (Steady.sup _ _)
  · split <;> exact census p s _
  all_goals exact Steady.refl _

theorem ownersEnding (p : Port) (b : Body) (e : Ending) (os : List Owner) :
    ∀ s : State, SteadyAt p s (os.foldl (fun u o => u.ownerEnding p b e o) s) := by
  induction os with
  | nil => exact fun s => Steady.refl _
  | cons o rest ih => exact fun s => (ownerEnding s p b e o).trans (ih _)

end SteadyAt

end Sys2Proof.Machine
end

