-- ==== Sys2Proof/Laws/Commands.lean ====
section
/-! SUPPORT. What a port's own command can do: it answers its own state, or the end of an event whose effect is work on
that port. -/

namespace Sys2Proof.Machine

/-- A command that answers `s` itself, or the end of an event with port work on `p`. -/
def PortShape (p : Port) (s : State) (o : Out) : Prop :=
  o = .next s ∨ ∃ u, o = .next (s.finish u) ∧ PortWork p s u

namespace PortShape

theorem event (p : Port) (s : State) (due : PortRecord → Bool) (f : State → State) (h : PortWork p s (f s)) :
    PortShape p s (s.portEvent p due f) := by
  unfold State.portEvent State.event
  split
  · exact Or.inr ⟨_, rfl, h⟩
  · exact Or.inl rfl

/-- Either answer is within the frame of a port's command. -/
theorem frame {p : Port} {s t : State} {o : Out} (h : PortShape p s o) (ho : o = .next t) : PortFrame p s t := by
  rcases h with h | ⟨u, h, w⟩
  · have e : t = s := by rw [ho] at h; injection h
    subst e
    exact ⟨rfl, rfl, rfl, fun _ _ => rfl, .refl p _, ⟨_, rfl⟩, ⟨_, rfl⟩, ⟨_, _, _, _, _, _, rfl⟩, .same rfl rfl⟩
  · have e : t = s.finish u := by rw [ho] at h; injection h
    subst e
    exact w.finish

/-- Either answer keeps the canonical form of the plain memory. -/
theorem canonical {p : Port} {s t : State} {o : Out} (h : PortShape p s o) (ho : o = .next t)
    (hs : s.memoryCanonical) : t.memoryCanonical := by
  rcases h with h | ⟨u, h, w⟩
  · have e : t = s := by rw [ho] at h; injection h
    rwa [e]
  · have e : t = s.finish u := by rw [ho] at h; injection h
    subst e
    exact w.canonical hs

end PortShape

namespace PortWork

theorem settleTimers (s : State) (p : Port) : PortWork p s (s.settleTimers p) := onPort s p _

theorem letGo (s : State) (p : Port) (gone : Owner → Bool) : PortWork p s (s.tasksLetGo p gone) := onPort s p _

theorem queueTask (s : State) (p : Port) (t : TaskRef) (b : Body) : PortWork p s (s.queueTask p t b) := by
  unfold State.queueTask
  split
  · next u hu => exact join hu
  · exact complete p s t _ _

theorem takePoll (s : State) (p : Port) (t : TaskRef) : PortWork p s (s.takePoll p t) := by
  unfold State.takePoll
  dsimp only
  repeat' split
  all_goals first | exact complete p s t _ _ | exact queueTask s p t _

theorem takeWakeTask (s : State) (p : Port) (t : TaskRef) (m : Nat) : PortWork p s (s.takeWakeTask p t m) := by
  unfold State.takeWakeTask
  dsimp only
  repeat' split
  all_goals first | exact complete p s t _ _ | exact queueTask s p t _

theorem takeSleep (s : State) (p : Port) (t : TaskRef) : PortWork p s (s.takeSleep p t) := by
  unfold State.takeSleep
  dsimp only
  split
  · exact complete p s t _ _
  · split
    · exact complete p s t _ _
    · split
      · exact complete p s t _ _
      · split
        · next u hu => exact (join hu).trans (onPort u p _)
        · exact complete p s t _ _

theorem takeRestart (s : State) (p : Port) (t : TaskRef) : PortWork p s (s.takeRestart p t) := by
  unfold State.takeRestart
  dsimp only
  split
  · exact complete p s t _ _
  · split
    · exact complete p s t _ _
    · exact (beginRestart s p _).trans (onPort _ p _)

theorem takeClear (s : State) (p : Port) : PortWork p s (s.takeClear p) :=
  ((onPort s p _).trans (letGo _ p _)).trans (completeAll p _ _ _ _)

theorem takeCancel (s : State) (p : Port) (t : TaskRef) : PortWork p s (s.takeCancel p t) := by
  unfold State.takeCancel
  dsimp only
  split
  · exact ((onPort s p _).trans (letGo _ p _)).trans (complete p _ _ _ _)
  · split
    · exact (onPort s p _).trans (onPort _ p _)
    · exact onPort s p _

theorem askPort (s : State) (p : Port) : PortWork p s (s.askPort p) := by
  unfold State.askPort
  dsimp only
  split
  · exact onPort s p _
  · split
    · exact onPort s p _
    · exact censusLost p s _

theorem takeCensus (s : State) (p : Port) : PortWork p s (s.takeCensus p) := by
  unfold State.takeCensus
  dsimp only
  split
  · exact (((onPort s p _).trans (census p _ _)).trans (askPort _ p)).trans (census p _ _)
  · exact (onPort s p _).trans (census p _ _)

theorem takeStart (s : State) (p : Port) (num : Word) (v : ViewNo) (w : Work) :
    PortWork p s (s.takeStart p num v w) := by
  unfold State.takeStart
  split
  · exact report s p _
  · exact (startItem s p num v w).trans (report _ p _)

theorem takeAbort (s : State) (p : Port) (num : Word) (k : ResCode) : PortWork p s (s.takeAbort p num k) := by
  unfold State.takeAbort
  split
  · split
    · split
      · exact (abortTest s p _ k).trans (settleRestart _ p)
      · exact (abortWake s p _ k).trans (settleRestart _ p)
    · exact refl p s
  · exact refl p s

theorem endOffTime (s : State) (p : Port) : PortWork p s (s.endOffTime p) :=
  ((completeAll p _ _ _ s).trans (onPort _ p _)).trans (evaluate _ p)

end PortWork

/-- Every command of a port is an event of it (chapters 1, 2, 3, 5, 8 and 11). -/
theorem port_command (c : Instr) (p : Port) (s : State) (h : portOf c = some p) : PortShape p s (exec c s) := by
  cases c <;> simp only [portOf, Option.some.injEq, reduceCtorEq] at h
  all_goals subst h
  all_goals simp only [exec]
  case portTakeMode =>
    simp only [execPortTakeMode]
    split
    · exact .event _ s _ _ (((PortWork.onPort s _ _).trans (PortWork.evaluate _ _)).trans (PortWork.settlePort _ _))
    · exact Or.inl rfl
  case portTakeCutoffChange =>
    simp only [execPortTakeCutoffChange]
    split
    · exact .event _ s _ _ (((PortWork.onPort s _ _).trans (PortWork.evaluate _ _)).trans (PortWork.settlePort _ _))
    · exact Or.inl rfl
  case portTakeShedLevel =>
    simp only [execPortTakeShedLevel]
    split
    · exact .event _ s _ _ ((PortWork.takeInput s _ _).trans (PortWork.settlePort _ _))
    · exact Or.inl rfl
  case portTakeLimitMaximum =>
    simp only [execPortTakeLimitMaximum]
    split
    · refine .event _ s _ _ (PortWork.trans ?_ (PortWork.settlePort _ _))
      split
      · exact (PortWork.onPort s _ _).trans (PortWork.applyLimit _ _)
      · exact PortWork.onPort s _ _
    · exact Or.inl rfl
  case portTakeCensusClaim => exact .event _ s _ _ ((PortWork.takeCensus s _).trans (PortWork.settlePort _ _))
  case firstEvaluation =>
    exact .event _ s _ _ (((PortWork.onPort s _ _).trans (PortWork.evaluate _ _)).trans (PortWork.settlePort _ _))
  case terminalAbsent =>
    exact .event _ s _ _ ((((PortWork.loseLine s _ _).trans (PortWork.onPort _ _ _)).trans
      (PortWork.evaluate _ _)).trans (PortWork.settlePort _ _))
  case presenceRegained =>
    exact .event _ s _ _ (((PortWork.onPort s _ _).trans (PortWork.evaluate _ _)).trans (PortWork.settlePort _ _))
  case shortBegins => exact .event _ s _ _ ((PortWork.onPort s _ _).trans (PortWork.settleTimers _ _))
  case shortEnds => exact .event _ s _ _ ((PortWork.onPort s _ _).trans (PortWork.settleTimers _ _))
  case lineCurrentRefresh => exact .event _ s _ _ (PortWork.onPort s _ _)
  case trip =>
    exact .event _ s _ _ (((PortWork.onPort s _ _).trans (PortWork.evaluate _ _)).trans (PortWork.settlePort _ _))
  case tripCoolingEnd =>
    exact .event _ s _ _ (((PortWork.onPort s _ _).trans (PortWork.evaluate _ _)).trans (PortWork.settlePort _ _))
  case tripHistoryDrop => exact .event _ s _ _ (PortWork.onPort s _ _)
  case restartOffTimeEnd => exact .event _ s _ _ ((PortWork.endOffTime s _).trans (PortWork.settlePort _ _))
  case dutyOnPhaseEnd => exact .event _ s _ _ ((PortWork.onPort s _ _).trans (PortWork.settleTimers _ _))
  case dutyFrameEnd => exact .event _ s _ _ ((PortWork.onPort s _ _).trans (PortWork.settleTimers _ _))
  case pollDue => exact .event _ s _ _ ((PortWork.onPort s _ _).trans (PortWork.settlePort _ _))
  case awakeUntilReached => exact .event _ s _ _ ((PortWork.onPort s _ _).trans (PortWork.settlePort _ _))
  case testCooldownEnd => exact .event _ s _ _ (PortWork.onPort s _ _)
  case resultWindowExpiry => exact .event _ s _ _ ((PortWork.expireWindow s _).trans (PortWork.settlePort _ _))
  case demandQualified =>
    exact .event _ s _ _ ((((PortWork.onPort s _ _).trans (PortWork.abortByDemand _ _)).trans
      (PortWork.evaluate _ _)).trans (PortWork.settlePort _ _))
  case demandSignalLost => exact .event _ s _ _ ((PortWork.onPort s _ _).trans (PortWork.settleTimers _ _))
  case demandResumed => exact .event _ s _ _ ((PortWork.onPort s _ _).trans (PortWork.settleTimers _ _))
  case demandEnded =>
    exact .event _ s _ _ ((((PortWork.onPort s _ _).trans (PortWork.evaluate _ _)).trans
      (PortWork.settleRestart _ _)).trans (PortWork.settlePort _ _))
  case requestSendEnd => exact .event _ s _ _ (PortWork.onPort s _ _)
  case firstWindowClose => exact .event _ s _ _ (PortWork.onPort s _ _)
  case repeatWindowClose => exact .event _ s _ _ (PortWork.endFlight s _ _)
  case statusArrival => exact .event _ s _ _ (PortWork.endFlight s _ _)
  case ackArrival => exact .event _ s _ _ (PortWork.endFlight s _ _)
  case refuseArrival =>
    simp only [execRefuseArrival]
    split
    · exact .event _ s _ _ (PortWork.endFlight s _ _)
    · exact Or.inl rfl
  case resultArrival => exact .event _ s _ _ ((PortWork.takeResult s _ _ _ _ _).trans (PortWork.settlePort _ _))
  case portTakeStartClaim =>
    simp only [execPortTakeStartClaim]
    split
    · exact .event _ s _ _ (((PortWork.onPort s _ _).trans (PortWork.takeStart _ _ _ _ _)).trans
        (PortWork.settlePort _ _))
    · exact Or.inl rfl
  case portTakeAbortClaim =>
    simp only [execPortTakeAbortClaim]
    split
    · exact .event _ s _ _ (((PortWork.onPort s _ _).trans (PortWork.takeAbort _ _ _ _)).trans
        (PortWork.settlePort _ _))
    · exact Or.inl rfl
  case portTakeClear =>
    simp only [execPortTakeClear]
    split
    · exact .event _ s _ _ ((PortWork.takeClear s _).trans (PortWork.settlePort _ _))
    · exact Or.inl rfl
  case portTakeCancel =>
    simp only [execPortTakeCancel]
    split
    · exact .event _ s _ _ ((PortWork.takeCancel s _ _).trans (PortWork.settlePort _ _))
    · exact Or.inl rfl
  case portPoll =>
    simp only [execPortPoll]
    split
    · exact .event _ s _ _ ((PortWork.takeClaim s _ _ _ fun u => PortWork.takePoll u _ _).trans
        (PortWork.settlePort _ _))
    · exact Or.inl rfl
  case portWake =>
    simp only [execPortWake]
    split
    · exact .event _ s _ _ ((PortWork.takeClaim s _ _ _ fun u => PortWork.takeWakeTask u _ _ _).trans
        (PortWork.settlePort _ _))
    · exact Or.inl rfl
  case portSleep =>
    simp only [execPortSleep]
    split
    · exact .event _ s _ _ ((PortWork.takeClaim s _ _ _ fun u => PortWork.takeSleep u _ _).trans
        (PortWork.settlePort _ _))
    · exact Or.inl rfl
  case portRestart =>
    simp only [execPortRestart]
    split
    · exact .event _ s _ _ ((PortWork.takeClaim s _ _ _ fun u => PortWork.takeRestart u _ _).trans
        (PortWork.settlePort _ _))
    · exact Or.inl rfl
  case lineCurrentChange => exact .event _ s _ _ ((PortWork.onPort s _ _).trans (PortWork.settleTimers _ _))
  case demandSignalPresent => exact .event _ s _ _ ((PortWork.onPort s _ _).trans (PortWork.settleTimers _ _))

end Sys2Proof.Machine
end

