-- ==== Sys2Proof/Laws/Exchange.lean ====
section
/-! SUPPORT. What the exchange port's small operations can do, the rewrites an event's end leaves waiting, and the trip
history as a trip comes. -/

namespace Sys2Proof.Machine

/-! ### The SPI slave's place -/

@[simp] theorem spiAt_ms (s : State) (a : Nat) (w : List Byte) (b : Bool) : (s.spiAt a w b).ms = s.ms := rfl
@[simp] theorem spiAt_pending (s : State) (a : Nat) (w : List Byte) (b : Bool) :
    (s.spiAt a w b).pending = s.pending := rfl
@[simp] theorem spiAt_mc (s : State) (a : Nat) (w : List Byte) (b : Bool) : (s.spiAt a w b).mc = s.mc := rfl
@[simp] theorem spiAt_bu (s : State) (a : Nat) (w : List Byte) (b : Bool) : (s.spiAt a w b).bu = s.bu := rfl
@[simp] theorem spiAt_ce (s : State) (a : Nat) (w : List Byte) (b : Bool) : (s.spiAt a w b).ce = s.ce := rfl
@[simp] theorem spiAt_gw (s : State) (a : Nat) (w : List Byte) (b : Bool) : (s.spiAt a w b).gw = s.gw := rfl
@[simp] theorem spiAt_ports (s : State) (a : Nat) (w : List Byte) (b : Bool) : (s.spiAt a w b).ports = s.ports := rfl
@[simp] theorem spiAt_ex (s : State) (a : Nat) (w : List Byte) (b : Bool) :
    (s.spiAt a w b).ex = { s.ex with spi := .writing a w b } := rfl
@[simp] theorem spiAt_spiAt (s : State) (a c : Nat) (w x : List Byte) (b d : Bool) :
    (s.spiAt a w b).spiAt c x d = s.spiAt c x d := rfl

/-- A transaction that stands at an address goes on there, with its bytes of the word and its STRAY flag. -/
@[simp] theorem writable_spiAt (s : State) (a : Nat) (w : List Byte) (b : Bool) :
    (s.spiAt a w b).ex.writable a = some (w, b) := by
  simp [Exchange.writable]

/-- A byte ignored once STRAY_WRITE has been raised only moves the transaction on. -/
@[simp] theorem stray_true (s : State) (a : Nat) : s.stray a true = s.spiAt a [] true := rfl

/-- The first byte ignored raises STRAY_WRITE (R148, R149). -/
@[simp] theorem stray_false (s : State) (a : Nat) : s.stray a false = (s.raise .strayWrite).spiAt a [] true := rfl

/-- A run of no bytes from where a transaction stands leaves it there. -/
theorem writeRun_nil (s : State) (a : Nat) (w : List Byte) (b : Bool) (h : s.ex.writable a = some (w, b)) :
    s.writeRun a [] = s.spiAt a w b := by
  simp [State.writeRun, h]

/-- A run of bytes is its first byte's event and then the run of the rest, wherever that byte has left the transaction.
-/
theorem writeRun_cons (s : State) (a : Nat) (w : List Byte) (b : Bool) (x : Byte) (xs : List Byte)
    (h : s.ex.writable a = some (w, b)) :
    s.writeRun a (x :: xs) = xs.foldl (fun u y => u.finish (u.nextByte y))
      ((s.spiAt a w b).finish ((s.spiAt a w b).nextByte x)) := by
  simp [State.writeRun, h]

/-! ### Rewrites that wait -/

@[simp] theorem ask_views (s : State) (v : ViewId) : (s.ask v).ex.views = s.ex.views ++ [v] := rfl

/-- A record whose shown fields an event changed has a rewrite waiting after it. -/
theorem changed_waits {s t : State} {v : ViewId} (h : v ∈ changedViews s t) : v ∈ (s.finish t).ex.views := by
  show v ∈ t.ex.views ++ askedViews s t
  by_cases hv : v ∈ t.ex.views
  · exact List.mem_append_left _ hv
  · refine List.mem_append_right _ (List.mem_filter.mpr ⟨h, ?_⟩)
    rw [List.count_eq_zero.mpr hv]
    exact decide_eq_true (Nat.zero_le _)

/-- A rewrite that an event asks for itself waits after it, whatever the record then shows. -/
theorem asked_waits {s t : State} {v : ViewId} (h : v ∈ t.ex.views) : v ∈ (s.finish t).ex.views :=
  List.mem_append_left _ h

/-- A wake condition that ends no rest changes nothing. -/
theorem takeWake_idle {s : State} {c : WakeCond} (h : (s.gw.resting && s.gw.holds c) = false) : s.takeWake c = s := by
  simp [State.takeWake, h]

/-- A wake condition that ends a rest sets its cause bit and asks for the part status record (R143, R146). -/
theorem takeWake_ends {s : State} {c : WakeCond} (h : (s.gw.resting && s.gw.holds c) = true) :
    s.takeWake c = ((s.setGw s.gw.restEnded).setCause (condCause c)).ask .partStatus := by
  simp [State.takeWake, h]

/-- A revocation asks for the port's view (R19, R44). -/
theorem revoke_asks (s : State) (p : Port) (g : Grant) (b : Bool) : ViewId.port p ∈ (s.revoke p g b).ex.views :=
  List.mem_append_right _ (List.mem_singleton.mpr rfl)

/-- A changed standing of a fitted port leaves a rewrite of the part status record waiting (R79). -/
theorem standing_waits {s t : State} {p : Port} (hp : p ∈ t.fittedPorts) (h : t.standing p ≠ s.standing p) :
    ViewId.partStatus ∈ (s.finish t).ex.views := by
  refine changed_waits (List.mem_append_right _ ?_)
  have : standingMoved s t = true := List.any_eq_true.mpr ⟨p, hp, by simpa using h⟩
  simp [this]

/-! ### Records and results -/

/-- A campaign view's in-flight set holds the ports of its entries and no other (section 12-6). -/
theorem flyingSet_getLsbD (l : List Entry) (p : Port) :
    (flyingSet l).getLsbD p.val = true ↔ ∃ e ∈ l, e.port = p := by
  induction l with
  | nil => simp [flyingSet]
  | cons e l ih =>
    have h : flyingSet (e :: l) = BitVec.twoPow 64 e.port.val ||| flyingSet l := rfl
    rw [h, BitVec.getLsbD_or, BitVec.getLsbD_twoPow, Bool.or_eq_true, ih]
    simp [Fin.ext_iff]

/-- A completion leaves its slot DONE and its result half whole (R152). -/
theorem finishSlot_stands (s : State) (i : Slot) (tag : Half) (st : Status) (fields : List Byte) :
    ResultStands (s.finishSlot i tag st fields) i tag s.mc.clock st fields := by
  have hs : (s.finishSlot i tag st fields).ex.slots = s.ex.slots.set i.val .done := by
    unfold State.finishSlot; split <;> rfl
  have hm : (s.finishSlot i tag st fields).ex.mem
      = Memory.write s.ex.mem (resultBase i) (resultHalf st tag s.mc.clock fields) := by
    unfold State.finishSlot; split <;> rfl
  have hl : (resultHalf st tag s.mc.clock fields).length = 64 := by
    simp [resultHalf, Memory.zeros, Memory.le16, Memory.le32]
  refine ⟨by rw [hs]; simp, fun k hk => ?_⟩
  rw [hm, Memory.read_write_in _ _ _ k (by omega)]
  simp only [resultHalf, List.getElem_take]
  rw [List.getElem_append]
  split
  · rename_i hkl
    rw [List.getD_eq_getElem?_getD, List.getElem?_eq_getElem hkl]
    rfl
  · rename_i hkl
    rw [List.getD_eq_getElem?_getD, List.getElem?_eq_none (Nat.le_of_not_lt hkl)]
    exact List.getElem_replicate _

/-- A completion under the take number that the slot was taken with answers its task (R152). -/
theorem complete_answered (s : State) (u : TaskRef) (st : Status) (fields : List Byte)
    (h : HoldsSlot s u) : Answered s (s.complete u st fields) u st fields := by
  obtain ⟨tag, o, c, ht⟩ := h
  have hc : s.complete u st fields = s.finishSlot u.slot tag st fields := by simp [State.complete, ht]
  have hr := finishSlot_stands s u.slot tag st fields
  rw [hc]
  refine ⟨hr.1, fun tag' o' c' h' => ?_⟩
  rw [ht] at h'
  cases h'
  exact hr

/-! ### The trip history (R50, R51) -/

/-- A trip's own second does not stand in what is left of the history. -/
theorem clock_notMem_tripsLeft (clock : Time) (r : PortRecord) : clock ∉ r.tripsLeft clock := by
  simp [PortRecord.tripsLeft]

/-- A trip leaves a history without an entry twice without one. -/
theorem addTrip_nodup (clock : Time) (r : PortRecord) (h : r.feed.trips.Nodup) :
    (r.addTrip clock).feed.trips.Nodup :=
  List.nodup_append.mpr ⟨h.filter _, List.pairwise_singleton _ _, fun a ha b hb e =>
    clock_notMem_tripsLeft clock r (by rw [List.mem_singleton.mp hb] at e; exact e ▸ ha)⟩

/-- A trip lengthens the history by one entry at most. -/
theorem addTrip_length (clock : Time) (r : PortRecord) :
    (r.addTrip clock).feed.trips.length ≤ r.feed.trips.length + 1 := by
  show (r.tripsLeft clock ++ [clock]).length ≤ _
  rw [List.length_append]
  exact Nat.add_le_add_right (List.length_filter_le _ _) 1

end Sys2Proof.Machine
end

