-- ==== Sys2Proof/Tests/Slice0.lean ====
section
/-! SUPPORT. The model's own tests: ill-formed commands the check refuses, small tests of one command each, and for
every obligation with hypotheses a state and operands that meet them, clause by clause, at the bounds of their ranges.
-/

namespace Sys2Proof.Tests
open Sys2Proof Sys2Proof.Machine

/-! ### WellFormed -/

theorem test_transaction_without_data_is_well_formed :
    (Instr.spiRead 0xFFFF 0).wellFormed = true ∧ (Instr.plainWrite 0x400 []).wellFormed = true := by decide
theorem test_write_command_is_no_unknown_command : (Instr.spiUnknownCommand 0x02).wellFormed = false := by decide
theorem test_read_command_is_no_unknown_command : (Instr.spiUnknownCommand 0x03).wellFormed = false := by decide
theorem test_current_below_the_figure_is_ill_formed : (Instr.lineCurrentChange 0 (-327681)).wellFormed = false := by
  decide
theorem test_current_above_the_figure_is_ill_formed : (Instr.lineCurrentChange 0 327671).wellFormed = false := by
  decide
theorem test_largest_current_is_well_formed : (Instr.lineCurrentChange 0 327670).wellFormed = true := by decide

/-! ### Small states -/

/-- A port on bias with an ASLEEP terminal, past its first evaluation. -/
def live : PortRecord :=
  { blankPort with
    feed := { blankPort.feed with state := .bias, target := .bias, started := true, coldDone := true }
    term := { blankPort.term with state := .asleep } }

/-- Slot 3 is TAKEN by `task`, slot 4 by `other`. -/
def task : TaskRef := { slot := 3, take := 7 }
def other : TaskRef := { slot := 4, take := 8 }
def holding : Vector SlotState 32 :=
  ((Vector.replicate 32 SlotState.free).set 3 (.taken 7 0x55 (.port 0) false)).set 4 (.taken 8 0x56 .engine false)

/-- The exchange port with empty memory and slots 3 and 4 TAKEN. -/
def plainExchange : Exchange where
  mem := []
  slots := holding
  intake := []
  takeNo := 8
  doneEn := 0
  partEvent := 0
  partEventEn := 0
  wakeCause := 0
  psrRev := 1
  campRev := Vector.replicate 12 0
  spi := .idle
  spiOut := []
  attn := false
  views := []
  grantViews := 0

/-- Sixteen fitted ports with one record, at second 1000 of the part clock. -/
def withPorts (r : PortRecord) : State where
  ms := 1000000
  pending := []
  mc := { coldMode .fit16 .on true with clock := 1000, tickMs := 999000, decided := true }
  bu := coldBudget
  ce := coldEngine
  gw := coldGateway .on
  ports := Vector.replicate 64 r
  ex := plainExchange

def base : State := withPorts live

/-- The base state with other fields of one block. -/
def withMc (f : ModeCtl → ModeCtl) : State := base.setMc (f base.mc)
def withBu (f : Budget → Budget) : State := base.setBu (f base.bu)
def withCe (f : Engine → Engine) : State := base.setCe (f base.ce)
def withGw (f : Gateway → Gateway) : State := base.setGw (f base.gw)
def withEx (f : Exchange → Exchange) : State := base.setEx (f base.ex)

/-- The port `live` with other fields of one group. -/
def onFeed (f : Feed → Feed) : PortRecord := { live with feed := f live.feed }
def onTerm (f : Terminal → Terminal) : PortRecord := { live with term := f live.term }
def onDem (d : DemandState) : PortRecord := { live with dem := { live.dem with state := d } }
def onSup (f : Supervision → Supervision) : PortRecord := { live with sup := f live.sup }
def onLine (f : Line → Line) : PortRecord := { live with line := f live.line }
def onBox (f : Boxes → Boxes) : PortRecord := { live with box := f live.box }
def onTim (f : Timers → Timers) : PortRecord := { live with tim := f live.tim }
def onGot (m : Mode) (shed : Nat) (cutoff : Bool) : PortRecord :=
  { live with got := { mode := m, shed := shed, cutoff := cutoff } }

theorem holds_task (r : PortRecord) : HoldsSlot (withPorts r) task := ⟨_, _, _, rfl⟩

/-- Requests, an item and a flight of each kind the witnesses use. -/
def pollQuery : Request := { body := .query, owners := [.poll] }
def request (b : Body) (os : List Owner) : Request := { body := b, owners := os }
def flight (b : Body) (os : List Owner) : Flight := { req := request b os, phase := .firstWindow, start := 999500 }
def silentFlight (os : List Owner) : Flight :=
  { req := request .query os, phase := .repeatWindow, start := 998600 }
def item (w : Work) (ph : ItemPhase) : Item := { num := 11, view := 0, work := w, phase := ph }
def test : Work := .test 3 60 100 4400

/-- A fed port: FULL under the grant `fullGrant`. -/
def fed : PortRecord := onFeed fun f => { f with state := .full, target := .full .feed }
def fullGrant : Grant := { amount := 25, kind := .feed, tier := 2, time := 0, order := 1 }
def feedRequest : GrantReq := { port := 0, amount := 25, kind := .feed, tier := 2, arrival := 1 }

/-- A campaign of one round over port 0 with its item in flight, and one that rests. -/
def plan : CampaignPlan :=
  { work := test, priority := 1, ports := 1, rounds := 1, interval := 10, concurrency := 1, outageOnly := false }
def entry : Entry := { port := 0, num := 11, started := true }
def running : Campaign :=
  { newCampaign other plan 1 0 with
    state := .running, admitted := true, roundStart := some 900, cursor := 64, flying := [entry]
    map := (freshMap 1).set 0 .inFlight }
def resting : Campaign := { newCampaign other plan 1 0 with state := .resting, cursor := 64, notBefore := some 1000 }

/-- A card in slot 5, which heads the intake queue. -/
def posted (card : List Nat) : State :=
  withEx fun e =>
    { e with
      mem := Memory.write [] (slotBase 5) (card.map Memory.byte)
      slots := holding.set 5 .posted
      intake := [5] }

/-! ### Witnesses: the step and the frames -/

theorem witness_StepOnEmptyQueue : base.pending = [] ∧ ∀ f b m, Instr.resetLine ≠ .coldStart f b m :=
  ⟨rfl, by intro f b m; nofun⟩

theorem witness_PortFrames : ∃ c p s t, portOf c = some p ∧ exec c s = .next t :=
  ⟨.demandResumed 0, 0, withPorts (onTim fun t => { t with resume := some 999900 }), _, rfl, rfl⟩

theorem witness_TurnedAwayCommandsChangeNothing :
    (∃ c p, portOf c = some p ∧ base.fitted p = false ∧ p.val = 16)
      ∧ (100 < (101 : Byte).toNat ∧ (live.accepts base.ms statusAnswers = false)
          ∧ (live.accepts base.ms (ackAnswers (some .wake)) = false)
          ∧ (live.accepts base.ms refuseAnswers = false) ∧ live.resultOpen base.ms = false) :=
  ⟨⟨.trip 16, 16, by decide⟩, by decide⟩

/-! ### Witnesses: the invariants -/

theorem base_port (p : Port) : base.port p = live := by simp [base, withPorts, State.port]

theorem base_grantsMatchFeed : base.grantsMatchFeed := by
  refine ⟨by decide, fun p => ?_⟩
  rw [base_port]
  have h1 : base.bu.grantOf p = none := by
    show (Vector.replicate 64 none)[p.val] = none
    simp
  have h2 : base.bu.requestOf p = none := rfl
  rw [h1, h2]
  refine ⟨by decide, by decide, fun h => absurd h (by decide), fun h => absurd h (by decide)⟩

theorem witness_ExchangePortStaysSound :
    ∃ s t, step s = .next t ∧ s.memoryCanonical ∧ s.attnDriven ∧ s.intakePosted := by
  refine ⟨base.withPending [.portEnableWrite 0 1], _, rfl, by decide, by decide, by decide, ?_⟩
  decide

theorem witness_BudgetStaysSound :
    ∃ s t, step s = .next t ∧ s.grantsFit ∧ s.queueOrdered ∧ s.estimateHeld ∧ s.ordersHeld := by
  refine ⟨(withBu fun b => { b with estimate := some 10, capacity := some 10, queue := [feedRequest] }).withPending
    [.budgetTakeMode], _, rfl, by decide, ?_, ⟨?_, by decide, by decide⟩, ?_⟩
  · exact List.pairwise_singleton _ _
  · intro e h
    exact ⟨10, rfl, by cases h; decide⟩
  · intro p g h
    have : (Vector.replicate 64 (none : Option Grant))[p.val] = some g := h
    simp at this

theorem witness_CampaignPlacesHold : ∃ s t, s.placesHold ∧ step s = .next t := by
  refine ⟨(withCe fun e => { e with active := some running }).withPending [.engineTakeCancel], _, ?_, rfl⟩
  refine ⟨by decide, by decide, fun c h => ?_⟩
  cases h
  decide

theorem witness_GrantsMatchFeedStates : ∃ s t, s.grantsMatchFeed ∧ s.tripsBounded ∧ step s = .next t := by
  refine ⟨base.withPending [.demandSignalPresent 0], _, base_grantsMatchFeed, fun p => ?_, rfl⟩
  show (base.port p).feed.trips.length ≤ 3 ∧ (base.port p).feed.trips.Nodup
    ∧ ((base.port p).feed.trips.length = 3 → (base.port p).feed.latch = true)
  rw [base_port]
  decide

/-! ### Witnesses: RESET, the clock and the mode controller -/

/-- The RESET line finds a line with work, on a port of each kind the clauses name. -/
theorem witness_ResetLineState :
    (∃ s p, s.fitted p = true ∧ (s.port p).feed.hold = false ∧ TargetCurrent s p ∧ (s.port p).sup.deferred = false
        ∧ (s.port p).lineOpen = true ∧ (s.port p).term.state ≠ .testing)
      ∧ (∃ s p, s.fitted p = true ∧ (s.port p).feed.hold = false ∧ TargetCurrent s p
        ∧ (s.port p).sup.deferred = false ∧ (s.port p).lineOpen = true ∧ (s.port p).term.state = .testing)
      ∧ ∃ p, base.fitted p = false :=
  ⟨⟨base, 15, by decide⟩, ⟨withPorts (onTerm fun t => { t with state := .testing }), 15, by decide⟩, 16, by decide⟩

theorem witness_ClockAndMainsEdges : base.mc.tickMs + 1000 ≤ base.ms ∧ base.mc.mainsOk = true
    ∧ (withMc fun m => { m with mainsOk := false }).mc.mainsOk = false := by decide

theorem witness_ModeIsDecidedAndChanged :
    (∃ s : State, s.mc.decided = false ∧ s.ms = 500 ∧ s.mc.mode = .mains ∧ s.mc.mainsOk = true)
      ∧ (∃ s : State, s.mc.decided = false ∧ s.ms = 500 ∧ s.mc.mode = .mains ∧ s.mc.mainsOk = false
        ∧ s.bu.estimate = none)
      ∧ (∃ s : State, s.mc.decided = false ∧ 500 ≤ s.ms ∧ s.mc.mode = .mains ∧ s.mc.mainsOk = false
        ∧ s.bu.estimate = some 10)
      ∧ (∃ (s : State) (t0 : Ms), s.mc.mode = .mains ∧ s.mc.lossTimer = some t0 ∧ t0 + 500 = s.ms)
      ∧ ∃ (s : State) (w : Stamp), s.mc.mode ≠ .mains ∧ s.mc.restoreTimer = some w
        ∧ w.ms + 1000 * s.mc.restoreQual = s.ms :=
  ⟨⟨{ withMc fun m => { m with decided := false } with ms := 500 }, by decide⟩,
    ⟨{ withMc fun m => { m with decided := false, mainsOk := false } with ms := 500 }, by decide⟩,
    ⟨(withMc fun m => { m with decided := false, mainsOk := false }).setBu { coldBudget with estimate := some 10 },
      by decide⟩,
    ⟨withMc fun m => { m with lossTimer := some 999500 }, 999500, by decide⟩,
    withMc fun m => { m with mode := .outage, restoreTimer := some { ms := 940000, sec := 940 } },
    { ms := 940000, sec := 940 }, by decide⟩

theorem witness_HoldEnteredAndLeft :
    (∃ s : State, s.mc.holdNext = true ∧ s.mc.mode = .outage ∧ (s.mc.floorTaken = true ∨ s.mc.cutoff = true))
      ∧ (∃ s : State, s.mc.floors = [true] ∧ s.mc.mode = .outage)
      ∧ (∃ s : State, s.mc.floors = [false] ∧ s.mc.mode = .hold ∧ s.mc.cutoff = false)
      ∧ ∃ s : State, s.mc.floors = [false] ∧ s.mc.cutoff = true :=
  ⟨⟨withMc fun m => { m with holdNext := true, mode := .outage, floorTaken := true }, by decide⟩,
    ⟨withMc fun m => { m with floors := [true], mode := .outage }, by decide⟩,
    ⟨withMc fun m => { m with floors := [false], mode := .hold }, by decide⟩,
    withMc fun m => { m with floors := [false], cutoff := true }, by decide⟩

theorem witness_EnvelopeWindowAndHoldAlarm :
    (∃ s : State, s.mc.lock = none ∧ s.mc.clock = 900)
      ∧ (∃ (s : State) (a : Time), s.mc.mode = .hold ∧ s.mc.nextAlarm = some a ∧ a = s.mc.clock
        ∧ s.mc.census.state = .running)
      ∧ (∃ (s : State) (a : Time), s.mc.mode = .hold ∧ s.mc.nextAlarm = some a ∧ a = s.mc.clock
        ∧ s.mc.census.state ≠ .running ∧ ∃ p, s.fitted p = true ∧ (s.port p).canAsk = true)
      ∧ ∃ (s : State) (a : Time), s.mc.mode = .hold ∧ s.mc.nextAlarm = some a ∧ a = s.mc.clock
        ∧ s.mc.census.state ≠ .running ∧ ∀ p, s.fitted p = true → (s.port p).canAsk = false := by
  refine ⟨⟨withMc fun m => { m with clock := 900 }, by decide⟩,
    ⟨withMc fun m =>
      { m with mode := .hold, nextAlarm := some 1000, census := { m.census with state := .running } }, 1000,
      by decide⟩,
    ⟨withMc fun m => { m with mode := .hold, nextAlarm := some 1000 }, 1000, by decide, by decide, by decide, by decide,
      0, by decide⟩,
    (withPorts (onDem .active)).setMc { base.mc with mode := .hold, nextAlarm := some 1000 }, 1000, by decide,
    by decide, by decide, by decide, fun p _ => ?_⟩
  have : (withPorts (onDem .active)).port p = onDem .active := by simp [withPorts, State.port]
  show ((withPorts (onDem .active)).port p).canAsk = false
  rw [this]
  decide

/-! ### Witnesses: the bank and the budget -/

/-- A budget out of MAINS with an estimate, and the card's thresholds. -/
def levels : Thresholds := { t3 := 400, t2 := 200, t1 := 100 }
def budgetAt (e : Nat) : Budget :=
  { coldBudget with
    mode := .outage, estimate := some e, capacity := some 500, thresholds := some levels, floor := 50 }

/-- A witness at each bound of the table: the level's lowest and highest estimate. -/
theorem witness_ShedLevelTable :
    coldBudget.mode = .mains
      ∧ (∀ e, (budgetAt e).mode ≠ .mains ∧ (budgetAt e).estimate = some e ∧ (budgetAt e).thresholds = some levels
          ∧ levels.t2 < levels.t3 ∧ levels.t1 < levels.t2 ∧ (budgetAt e).floor < levels.t1)
      ∧ [0, 49, 50, 99, 100, 199, 200, 399, 400, 500].map (fun e => (budgetAt e).level)
        = [4, 4, 3, 3, 2, 2, 1, 1, 0, 0] :=
  ⟨rfl, fun e => ⟨by nofun, rfl, rfl, by decide, by decide, by simp only [budgetAt]; decide⟩, by decide⟩

/-- Port 0 fed under a FEED grant and port 1 under a LIFELINE grant, with a new ceiling `c`. -/
def lifelineGrant : Grant := { fullGrant with kind := .lifeline, order := 2 }
def lowering (c : Nat) : State :=
  (((withBu fun b => { b with
    ceilings := [(c, 0)]
    orders := 2
    table := ((Vector.replicate 64 none).set 0 (some fullGrant)).set 1 (some lifelineGrant) }).setPort 0 fed).setPort 1
      (onFeed fun f => { f with state := .full, target := .full .lifeline }))

theorem lowering_others (c : Nat) (p : Port) (h0 : p ≠ 0) (h1 : p ≠ 1) :
    (lowering c).port p = live ∧ (lowering c).bu.grantOf p = none := by
  have n0 : (0 : Nat) ≠ p.val := fun e => h0 (Fin.ext e.symm)
  have n1 : (1 : Nat) ≠ p.val := fun e => h1 (Fin.ext e.symm)
  have h : ∀ {α : Type} (v : Vector α 64) (a b : α), ((v.set 0 a).set 1 b)[p.val] = v[p.val] := fun v a b => by
    rw [Vector.getElem_set_ne _ _ n1, Vector.getElem_set_ne _ _ n0]
  constructor
  · show (((Vector.replicate 64 live).set 0 _).set 1 _)[p.val] = live
    rw [h, Vector.getElem_replicate]
  · show (((Vector.replicate 64 none).set 0 _).set 1 _)[p.val] = none
    rw [h, Vector.getElem_replicate]

theorem lowering_grantsMatchFeed : (lowering 25).grantsMatchFeed := by
  refine ⟨by decide, fun p => ?_⟩
  have hq : (lowering 25).bu.requestOf p = none := rfl
  rw [hq]
  by_cases h0 : p = 0
  · subst h0
    exact ⟨by decide, by decide, fun _ => ⟨by decide, by decide, Or.inl ⟨.feed, rfl⟩⟩, fun h => absurd h (by decide)⟩
  · by_cases h1 : p = 1
    · subst h1
      exact ⟨by decide, by decide, fun _ => ⟨by decide, by decide, Or.inl ⟨.lifeline, rfl⟩⟩,
        fun h => absurd h (by decide)⟩
    · rw [(lowering_others 25 p h0 h1).1, (lowering_others 25 p h0 h1).2]
      exact ⟨by decide, by decide, fun h => absurd h (by decide), fun h => absurd h (by decide)⟩

/-- The least and the greatest ceiling that revoke the one grant, and the greatest that revokes both. -/
theorem witness_BudgetTakesModeAndCeiling :
    (withBu fun b => { b with modes := [.outage] }).bu.modes = [.outage]
      ∧ (∀ c, (lowering c).bu.ceilings = [(c, 0)] ∧ (lowering c).bu.queue = [])
      ∧ (lowering 25).grantsMatchFeed ∧ (lowering 25).ordersHeld
      ∧ (lowering 25).bu.grantOf 0 = some fullGrant ∧ fullGrant.kind = .feed
      ∧ (lowering 25).bu.grantOf 1 = some lifelineGrant ∧ lifelineGrant.kind = .lifeline
      ∧ (∀ p : Port, p ≠ 0 → p ≠ 1 → (lowering 25).bu.grantOf p = none)
      ∧ lifelineGrant.amount ≤ 25 ∧ 49 < fullGrant.amount + lifelineGrant.amount ∧ 24 < lifelineGrant.amount := by
  refine ⟨rfl, fun c => ⟨rfl, rfl⟩, lowering_grantsMatchFeed, fun p g h => ?_, rfl, rfl, rfl, rfl,
    fun p h0 h1 => (lowering_others 25 p h0 h1).2, by decide, by decide, by decide⟩
  by_cases h0 : p = 0
  · subst h0; cases h; decide
  · by_cases h1 : p = 1
    · subst h1; cases h; decide
    · rw [(lowering_others 25 p h0 h1).2] at h; cases h

theorem witness_BankSampleMovesEstimate :
    (base.bu.lastSample ≠ base.mc.clock ∧ base.estimateHeld ∧ base.bu.estimate = none)
      ∧ ∃ s : State, s.bu.lastSample ≠ s.mc.clock ∧ s.estimateHeld ∧ s.bu.estimate = some 0
        ∧ s.bu.capacity = some 500 := by
  refine ⟨⟨by decide, ⟨(fun e h => nomatch h), by decide, by decide⟩, rfl⟩, base.setBu (budgetAt 0), by decide,
    ⟨fun e h => ⟨500, rfl, ?_⟩, by decide, by decide⟩, rfl, rfl⟩
  cases h
  decide

/-- The sample just below the cutoff voltage and at it, with the entry timer stopped, just short of 5 s, and at 5 s. -/
theorem witness_CutoffEntry :
    (∃ (s : State) (v : Half), s.bu.lastSample ≠ s.mc.clock ∧ s.mc.cutoff = false ∧ s.mc.env.cutoff = v.toNat)
      ∧ (∃ (s : State) (v : Half), s.bu.lastSample ≠ s.mc.clock ∧ s.mc.cutoff = false
        ∧ v.toNat + 1 = s.mc.env.cutoff ∧ s.mc.cutEntry = none)
      ∧ (∃ (s : State) (v : Half) (t0 : Time), s.bu.lastSample ≠ s.mc.clock ∧ s.mc.cutoff = false
        ∧ v.toNat + 1 = s.mc.env.cutoff ∧ s.mc.cutEntry = some t0 ∧ s.mc.clock + 1 = t0 + 5)
      ∧ ∃ (s : State) (v : Half) (t0 : Time), s.bu.lastSample ≠ s.mc.clock ∧ s.mc.cutoff = false
        ∧ v.toNat + 1 = s.mc.env.cutoff ∧ s.mc.cutEntry = some t0 ∧ t0 + 5 = s.mc.clock :=
  ⟨⟨base, 4320, by decide⟩, ⟨base, 4319, by decide⟩,
    ⟨withMc fun m => { m with cutEntry := some 996 }, 4319, 996, by decide⟩,
    withMc fun m => { m with cutEntry := some 995 }, 4319, 995, by decide⟩

theorem witness_CutoffLifting :
    (∃ (s : State) (v : Half), s.bu.lastSample ≠ s.mc.clock ∧ s.mc.cutoff = true
        ∧ v.toNat + 1 = s.mc.env.cutoff + 100)
      ∧ (∃ (s : State) (v : Half), s.bu.lastSample ≠ s.mc.clock ∧ s.mc.cutoff = true
        ∧ s.mc.env.cutoff + 100 = v.toNat ∧ s.mc.cutLift = none)
      ∧ (∃ (s : State) (v : Half) (t0 : Time), s.bu.lastSample ≠ s.mc.clock ∧ s.mc.cutoff = true
        ∧ s.mc.env.cutoff + 100 = v.toNat ∧ s.mc.cutLift = some t0 ∧ s.mc.clock + 1 = t0 + 60)
      ∧ ∃ (s : State) (v : Half) (t0 : Time), s.bu.lastSample ≠ s.mc.clock ∧ s.mc.cutoff = true
        ∧ s.mc.env.cutoff + 100 = v.toNat ∧ s.mc.cutLift = some t0 ∧ t0 + 60 = s.mc.clock :=
  ⟨⟨withMc fun m => { m with cutoff := true }, 4419, by decide⟩,
    ⟨withMc fun m => { m with cutoff := true }, 4420, by decide⟩,
    ⟨withMc fun m => { m with cutoff := true, cutLift := some 941 }, 4420, 941, by decide⟩,
    withMc fun m => { m with cutoff := true, cutLift := some 940 }, 4420, 940, by decide⟩

/-- A head that just fits, for either target, and a FEED head that just does not. -/
theorem witness_FittingHeadIsGrantedFeedHeadBlocks :
    (∃ (s : State) (q : GrantReq), s.bu.due = true ∧ s.bu.queue = [q] ∧ q.amount = s.bu.pool
        ∧ (s.port q.port).feed.state = .waiting ∧ (s.port q.port).feed.target = .full .feed)
      ∧ (∃ (s : State) (q : GrantReq), s.bu.due = true ∧ s.bu.queue = [q] ∧ q.amount = s.bu.pool
        ∧ (s.port q.port).feed.state = .waiting ∧ (s.port q.port).feed.target = .duty 4 .feed)
      ∧ ∃ (s : State) (q : GrantReq), s.bu.due = true ∧ s.bu.queue = [q] ∧ q.kind = .feed
        ∧ s.bu.pool + 1 = q.amount :=
  ⟨⟨(withPorts (onFeed fun f => { f with state := .waiting, target := .full .feed })).setBu
      { coldBudget with due := true, queue := [feedRequest], ceiling := 25 }, feedRequest, by decide⟩,
    ⟨(withPorts (onFeed fun f => { f with state := .waiting, target := .duty 4 .feed })).setBu
      { coldBudget with due := true, queue := [feedRequest], ceiling := 25 }, feedRequest, by decide⟩,
    withBu fun b => { b with due := true, queue := [feedRequest], ceiling := 24 }, feedRequest, by decide⟩

/-- A LIFELINE head of port 0 that just fits once the FEED grant of port 1 is taken back. -/
def preempting : State :=
  (withPorts (onFeed fun f => { f with state := .waiting, target := .full .lifeline })).setBu
    { coldBudget with
      due := true, queue := [{ feedRequest with kind := .lifeline }], ceiling := 25
      table := (Vector.replicate 64 none).set 1 (some fullGrant) }

theorem witness_LifelinePreempts :
    ((preempting.bu.victim .feed).map (·.1) = some 1)
      ∧ ∃ (q : GrantReq) (v : Port) (g : Grant), preempting.bu.due = true ∧ preempting.bu.queue = [q]
        ∧ q.kind = .lifeline ∧ preempting.grantsFit ∧ preempting.bu.pool < q.amount
        ∧ q.amount ≤ preempting.bu.pool + g.amount ∧ v ≠ q.port ∧ preempting.bu.grantOf v = some g ∧ g.kind = .feed
        ∧ preempting.bu.grantOf q.port = none
        ∧ (∀ p h, p ≠ v → preempting.bu.grantOf p = some h → h.kind = .lifeline)
        ∧ (preempting.port q.port).feed.state = .waiting
        ∧ (preempting.port q.port).feed.target = .full .lifeline := by
  refine ⟨by decide, { feedRequest with kind := .lifeline }, 1, fullGrant, by decide, by decide, by decide, by decide,
    by decide, by decide, by decide, by decide, by decide, by decide, fun p h hp hg => ?_, by decide, by decide⟩
  have : preempting.bu.grantOf p = none := by
    show ((Vector.replicate 64 none).set 1 (some fullGrant))[p.val] = none
    rw [Vector.getElem_set_ne (i := 1) _ _ (fun e => hp (Fin.ext e.symm))]
    simp
  rw [this] at hg
  cases hg

/-- Ports granted, revoked and cut to a limit maximum on a line with a request in flight, on an idle one and on one of
an ABSENT terminal. -/
theorem witness_ChargesHanded :
    let s := fun (r : PortRecord) => preempting.setPort 1 r
    let absent := { fed with term := { fed.term with state := .absent } }
    let busy := { fed with line := { fed.line with flight := some (flight .query [.poll]) } }
    (∀ r ∈ [fed, busy, absent], (s r).bu = preempting.bu ∧ (s r).port 0 = preempting.port 0
        ∧ ((s r).port 1).feed.state = .full)
      ∧ (fed.lineOpen = true ∧ fed.line.flight = none ∧ fed.line.halt = none ∧ fed.term.state ≠ .testing)
      ∧ (busy.lineOpen = true ∧ busy.line.flight = some (flight .query [.poll])) ∧ absent.lineOpen = false := by
  decide

/-! ### Witnesses: the feed decision and the figures of other blocks -/

/-- A port fed on its battery, one under a demand in OUTAGE, and the bounds of the shed rule. -/
def onBatteryFlags : StatusFlags :=
  { onBattery := true, awake := false, charging := false, batteryFault := false, offHook := false }
def eligible : PortRecord := { onGot .outage 1 false with feed := { live.feed with started := true } }

theorem witness_Eligibility :
    { onDem .active with got := { mode := .outage, shed := 0, cutoff := false } }.lifelineEligible = true
      ∧ { onDem .ending with got := { mode := .mains, shed := 0, cutoff := false } }.lifelineEligible = false
      ∧ (onGot .outage 1 false).feedingEligible = true ∧ (onGot .hold 1 false).feedingEligible = false
      ∧ (onGot .outage 2 false).shed = true ∧ (onGot .outage 1 false).shed = false := by decide

/-- A record for each row of the table. -/
theorem witness_FeedDecisionTable :
    ([ { live with setup := { live.setup with wish := .disabled } },
       onFeed fun f => { f with latch := true },
       onFeed fun f => { f with offTime := some 0 },
       onFeed fun f => { f with cooling := some 0 },
       onTerm fun t => { t with state := .absent },
       { onDem .active with got := { mode := .outage, shed := 4, cutoff := false } },
       { onGot .outage 0 false with feed := { live.feed with hold := true } },
       { onGot .outage 0 false with setup := { live.setup with wish := .forceBias } },
       onGot .outage 1 false,
       { onGot .outage 1 false with setup := { live.setup with policy := .duty 7 } },
       onGot .outage 2 false ].map PortRecord.decision)
      = [.off, .fault, .cycling, .tripped, .bias, .full .lifeline, .bias, .bias, .full .feed, .duty 7 .feed, .bias] := by
  decide

/-- A record for each row of the standing table, and a cooling that ends under the cutoff: the standing changes and the
feed state's row does not. -/
theorem witness_LifelineStanding :
    let dem := fun (m : Mode) (cut : Bool) => { onGot m 0 cut with dem := { live.dem with state := .active } }
    let lifeline : Grant := { fullGrant with kind := .lifeline }
    let asked : GrantReq := { feedRequest with kind := .lifeline }
    let cooled := fun r : PortRecord => { r with feed := { r.feed with state := .tripped, cooling := some 970000 } }
    [ live.standing none none,
      { dem .outage true with feed := { live.feed with latch := true, cooling := some 0 } }.standing none none,
      { dem .outage true with feed := { live.feed with cooling := some 0 } }.standing none none,
      (dem .mains true).standing none none,
      (dem .mains false).standing none none,
      { dem .mains false with term := { live.term with flags := some onBatteryFlags } }.standing (some lifeline) none,
      (dem .hold false).standing none (some asked) ]
        = [.none, .fault, .cooling, .cutoff, .onMains, .fed, .waiting]
      ∧ ∃ t, exec (.tripCoolingEnd 0) (withPorts (cooled (dem .outage true))) = .next t
        ∧ (withPorts (cooled (dem .outage true))).standing 0 = .cooling ∧ t.standing 0 = .cutoff
        ∧ t.fitted 0 = true :=
  ⟨by decide, _, rfl, by decide +kernel, by decide +kernel, by decide +kernel⟩

theorem witness_PortTakesFigures :
    (∃ (s : State) (p : Port), Steered s p ∧ (s.port p).box.modes = [.outage] ∧ (s.port p).box.cutoffs = [true]
        ∧ (s.port p).box.sheds = [4])
      ∧ (∃ (s : State) (p : Port), s.fitted p = true ∧ (s.port p).box.sheds = [2] ∧ (s.port p).feedingEligible = true
        ∧ (s.port p).setup.policy ≠ .bias ∧ (s.port p).got.shed + (s.port p).setup.tier + 1 = 4
        ∧ 4 = 2 + (s.port p).setup.tier)
      ∧ ∃ (s : State) (p : Port), s.fitted p = true ∧ (s.port p).box.sheds = [1] ∧ (s.port p).feedingEligible = true
        ∧ (s.port p).setup.policy ≠ .bias ∧ 4 = (s.port p).got.shed + (s.port p).setup.tier
        ∧ 1 + (s.port p).setup.tier + 1 = 4 :=
  ⟨⟨withPorts (onBox fun b => { b with modes := [.outage], cutoffs := [true], sheds := [4] }), 15, by decide⟩,
    ⟨withPorts { onGot .outage 1 false with box := { live.box with sheds := [2] } }, 0, by decide⟩,
    withPorts { onGot .outage 2 false with box := { live.box with sheds := [1] } }, 0, by decide⟩

/-- A line with a CHARGE in flight and `l` in its general places. -/
def busyLine (l : List Request) : Line := { live.line with flight := some (flight (.charge 25) [.feed]), general := l }
def full4 : List Request := List.replicate 4 (request .sleep [.awakeUntil])

/-- HOLD comes to a line with a poll queued, alone and merged, and to one with none. -/
theorem witness_PortTakesHold :
    let s := fun l => withPorts { onBox fun b => { b with modes := [.hold] } with line := busyLine l }
    let at_ := fun l => Steered (s l) 15 ∧ ((s l).port 15).box.modes = [.hold]
      ∧ ((s l).port 15).line.flight = some (flight (.charge 25) [.feed]) ∧ ((s l).port 15).term.awakeDue = false
      ∧ { (s l).port 15 with got := { ((s l).port 15).got with mode := .hold } }.decision = ((s l).port 15).feed.target
    at_ [pollQuery, request .query [.task task, .poll]] ∧ at_ full4 ∧ Owner.poll ∈ pollQuery.owners
      ∧ full4.all (fun q => !q.owners.contains .poll) = true := by
  decide

/-- A limit at the maximum, one above it under a grant, and one above it with a request. -/
theorem witness_PortTakesLimitMaximum :
    (∃ (s : State) (p : Port) (m : Nat), s.fitted p = true ∧ (s.port p).box.limits = [m] ∧ (s.port p).setup.limit = m)
      ∧ (∃ (s : State) (p : Port) (m : Nat) (g : Grant), s.fitted p = true ∧ (s.port p).box.limits = [m] ∧ m + 1 = (s.port p).setup.limit
        ∧ s.bu.grantOf p = some g ∧ m < g.amount)
      ∧ ∃ (s : State) (p : Port) (m : Nat) (q : GrantReq), s.fitted p = true ∧ (s.port p).box.limits = [m] ∧ m + 1 = (s.port p).setup.limit
        ∧ s.bu.grantOf p = none ∧ s.bu.requestOf p = some q ∧ q.amount ≠ m :=
  ⟨⟨withPorts (onBox fun b => { b with limits := [25] }), 0, 25, by decide⟩,
    ⟨(withPorts { fed with box := { live.box with limits := [24] } }).setBu
      { coldBudget with table := (Vector.replicate 64 none).set 0 (some fullGrant) }, 0, 24, fullGrant, by decide⟩,
    (withPorts (onBox fun b => { b with limits := [24] })).setBu { coldBudget with queue := [feedRequest] }, 0, 24,
    feedRequest, by decide⟩

/-- The census of a port that cannot ask, merges, finds the last free place, and finds none. -/
theorem witness_CensusClaimAnswered :
    let s := fun r : PortRecord => (withPorts { r with box := { r.box with census := true } }).setMc
      { base.mc with census := { noCensus with state := .running, unanswered := 1 } }
    let claim := fun r : PortRecord => (s r).fitted 0 = true ∧ ((s r).port 0).box.census = true
      ∧ (s r).mc.census.state = .running ∧ 1 = (s r).mc.census.unanswered
      ∧ ((s r).port 0).line.flight = some (flight (.charge 25) [.feed]) ∧ ((s r).port 0).term.awakeDue = false
    (claim { onDem .active with line := busyLine [] } ∧ { onDem .active with line := busyLine [] }.canAsk = false)
      ∧ (claim (onLine fun _ => busyLine [pollQuery]) ∧ (onLine fun _ => busyLine [pollQuery]).canAsk = true
        ∧ (busyLine [pollQuery]).hasQuery = true)
      ∧ (claim (onLine fun _ => busyLine (full4.take 3)) ∧ (onLine fun _ => busyLine (full4.take 3)).canAsk = true
        ∧ (busyLine (full4.take 3)).hasQuery = false ∧ (busyLine (full4.take 3)).general.length = 3)
      ∧ claim (onLine fun _ => busyLine full4) ∧ (onLine fun _ => busyLine full4).canAsk = true
        ∧ (busyLine full4).hasQuery = false ∧ (busyLine full4).general.length = 4 := by
  decide

/-! ### Witnesses: presence, shorts and what the line senses -/

theorem witness_FirstEvaluationAndPresence :
    (∃ s : State, ∃ (p : Port), s.fitted p = true ∧ (s.port p).feed.started = false ∧ s.ms = 5000 ∧ (s.port p).feed.offTime = none
        ∧ (s.port p).feed.state = .off ∧ (s.port p).feed.target = .off ∧ (s.port p).feed.coldDone = false
        ∧ (s.port p).decision = .bias ∧ (s.port p).term.awakeDue = false)
      ∧ ∃ (s : State) (p : Port) (t0 : Ms), Steered s p ∧ (s.port p).tim.presence = some t0 ∧ t0 + 2000 = s.ms
        ∧ (s.port p).term.awakeDue = false :=
  ⟨⟨{ withPorts blankPort with ms := 5000 }, 0, by decide⟩,
    withPorts { onTim fun t => { t with presence := some 998000 } with term := { live.term with state := .absent } }, 0,
    998000, by decide⟩

theorem witness_TerminalBecomesAbsent :
    ∃ (s : State) (p : Port) (t0 : Ms), Steered s p ∧ (s.port p).tim.absence = some t0 ∧ t0 + 10000 = s.ms
      ∧ Owner.task task ∈ (s.port p).line.owners ∧ HoldsSlot s task
      ∧ (s.port p).line.item = some (item test .requested) :=
  ⟨withPorts
      { onTim fun t => { t with absence := some 990000 } with
        line := { busyLine [request .sleep [.task task]] with item := some (item test .requested) } },
    15, 990000, by decide, by decide, by decide, by decide, holds_task _, by decide⟩

theorem witness_LineSensing :
    (base.port 15).feed.refreshed ≠ base.mc.clock
      ∧ ((withPorts (onFeed fun f => { f with refreshed := 1000 })).port 15).feed.refreshed = base.mc.clock
      ∧ (∃ (s : State) (p : Port) (t0 : Ms), s.fitted p = true ∧ (s.port p).tim.short = some t0 ∧ (s.port p).tim.shortEnd = some t0 ∧ t0 + 2000 = s.ms)
      ∧ ∃ (s : State) (p : Port) (t0 : Ms), s.fitted p = true ∧ (s.port p).tim.resume = some t0 ∧ t0 + 100 = s.ms :=
  ⟨by decide, by decide, ⟨withPorts (onTim fun t => { t with short := some 998000, shortEnd := some 998000 }), 15, 998000, by decide⟩,
    withPorts { onTim fun t => { t with resume := some 999900 } with dem := { live.dem with state := .ending } }, 15,
    999900, by decide⟩

/-! ### Witnesses: a port's timers -/

def onFrame (d : DutyFrame) : PortRecord := onFeed fun f => { f with state := .duty, target := .duty 4 .feed, duty := some d }
def inPhase (ph : TxPhase) (start : Ms) : PortRecord :=
  onLine fun l => { l with flight := some { req := pollQuery, phase := ph, start := start } }

theorem witness_PlainTimersRunOut :
    (∃ (s : State) (p : Port) (h : Time), s.fitted p = true ∧ (s.port p).feed.latch = false ∧ h ∈ (s.port p).feed.trips ∧ h + 600 = s.mc.clock)
      ∧ (∃ (s : State) (p : Port) (c : Time), s.fitted p = true ∧ (s.port p).bat.cooldown = some c ∧ c = s.mc.clock)
      ∧ (∃ (s : State) (p : Port) (d : DutyFrame), s.fitted p = true ∧ (s.port p).feed.state = .duty ∧ (s.port p).feed.duty = some d ∧ d.on = true
        ∧ d.start + 15 * d.eighths = s.mc.clock)
      ∧ (∃ (s : State) (p : Port) (d : DutyFrame), s.fitted p = true ∧ (s.port p).feed.state = .duty ∧ (s.port p).feed.duty = some d
        ∧ (s.port p).feed.target = .duty 4 .feed ∧ d.start + 120 = s.mc.clock)
      ∧ (∃ (s : State) (p : Port) (f : Flight), s.fitted p = true ∧ (s.port p).line.flight = some f ∧ f.phase = .firstSend ∧ f.start + 200 = s.ms)
      ∧ (∃ (s : State) (p : Port) (f : Flight), s.fitted p = true ∧ (s.port p).line.flight = some f ∧ f.phase = .repeatSend ∧ f.start + 900 = s.ms)
      ∧ ∃ (s : State) (p : Port) (f : Flight), s.fitted p = true ∧ (s.port p).line.flight = some f ∧ f.phase = .firstWindow ∧ f.start + 700 = s.ms :=
  ⟨⟨withPorts (onFeed fun f => { f with trips := [400] }), 0, 400, by decide⟩,
    ⟨withPorts { live with bat := { last := none, cooldown := some 1000 } }, 0, 1000, by decide⟩,
    ⟨withPorts (onFrame { on := true, start := 895, eighths := 7 }), 0, { on := true, start := 895, eighths := 7 },
      by decide⟩,
    ⟨withPorts (onFrame { on := false, start := 880, eighths := 4 }), 0, { on := false, start := 880, eighths := 4 },
      by decide⟩,
    ⟨withPorts (inPhase .firstSend 999800), 0, { req := pollQuery, phase := .firstSend, start := 999800 }, by decide⟩,
    ⟨withPorts (inPhase .repeatSend 999100), 0, { req := pollQuery, phase := .repeatSend, start := 999100 }, by decide⟩,
    withPorts (inPhase .firstWindow 999300), 0, { req := pollQuery, phase := .firstWindow, start := 999300 },
    by decide⟩

theorem witness_CoolingAndOffTimeRunOut :
    (∃ (s : State) (p : Port) (t0 : Ms), s.fitted p = true ∧ (s.port p).feed.started = true ∧ (s.port p).feed.offTime = none
        ∧ (s.port p).feed.cooling = some t0 ∧ t0 + 30000 = s.ms)
      ∧ ∃ (s : State) (p : Port) (t0 : Ms), s.fitted p = true ∧ (s.port p).feed.started = true ∧ (s.port p).feed.offTime = some t0
        ∧ t0 + 10000 = s.ms ∧ (s.port p).feed.state = .cycling ∧ (s.port p).feed.target = .cycling
        ∧ (s.port p).feed.coldDone = true ∧ (s.port p).term.awakeDue = false
        ∧ { s.port p with feed := { (s.port p).feed with offTime := none } }.decision = .bias
        ∧ task ∈ (s.port p).sup.waiting ∧ HoldsSlot s task :=
  ⟨⟨withPorts (onFeed fun f => { f with state := .tripped, target := .tripped, cooling := some 970000 }), 0, 970000,
      by decide⟩,
    withPorts
      { onFeed fun f => { f with state := .cycling, target := .cycling, offTime := some 990000 } with
        sup := { live.sup with waiting := [task] } },
    0, 990000, by decide, by decide, by decide, by decide, by decide, by decide, by decide, by decide, by decide, by decide,
    holds_task _⟩

/-- An overcurrent of 50 ms on a fed port with one trip in its history, and with two. -/
def tripping (trips : List Time) : State :=
  (withPorts
      { fed with
        feed := { fed.feed with trips := trips }
        tim := { fed.tim with overcur := some 999950 }
        line := busyLine [] }).setBu
    { coldBudget with table := (Vector.replicate 64 none).set 0 (some fullGrant) }

theorem witness_PortTrips :
    ∀ trips ∈ [[401], [401, 1000], [401, 402]], Steered (tripping trips) 0 ∧ ((tripping trips).port 0).fullClosed = true
      ∧ ((tripping trips).port 0).tim.overcur = some 999950 ∧ 999950 + 50 = (tripping trips).ms
      ∧ (tripping trips).bu.grantOf 0 = some fullGrant ∧ ((tripping trips).port 0).feed.latch = false
      ∧ ((tripping trips).port 0).feed.cooling = none ∧ ((tripping trips).port 0).feed.target = .full .feed
      ∧ ((((tripping trips).port 0).feed.trips.filter fun h =>
          decide ((tripping trips).mc.clock < h + 600 ∧ h ≠ (tripping trips).mc.clock)).length < 2 ↔ trips ≠ [401, 402])
      ∧ ((tripping trips).port 0).line.flight = some (flight (.charge 25) [.feed])
      ∧ ((tripping trips).port 0).lineOpen = true := by
  decide

/-- A poll that falls due now on a line that merges it, takes it, has no place, or is idle. -/
theorem witness_PollAndAwakeUntilFallDue :
    (∀ l ∈ [busyLine [pollQuery], busyLine (full4.take 3), busyLine full4, live.line],
        let s := withPorts { onLine fun _ => l with sup := { live.sup with pollDue := some 1000 } }
        s.fitted 15 = true ∧ (s.port 15).sup.pollDue = some s.mc.clock ∧ (s.port 15).pollSuspended = false
          ∧ (s.port 15).term.awakeDue = false ∧ (s.port 15).line = l)
      ∧ ((busyLine [pollQuery]).hasQuery = true ∧ (busyLine (full4.take 3)).hasQuery = false
        ∧ (busyLine (full4.take 3)).general.length = 3 ∧ (busyLine full4).hasQuery = false
        ∧ (busyLine full4).general.length = 4 ∧ live.line.flight = none ∧ live.line.halt = none
        ∧ live.line.charge = none ∧ live.line.general = [])
      ∧ ∀ d ∈ [DemandState.idle, DemandState.active],
        let s := withPorts
          { onTerm fun t => { t with awakeUntil := some 1000 } with
            dem := { live.dem with state := d }
            line := { busyLine (full4.take 3) with item := some (item (.wake 5) .window) } }
        s.fitted 15 = true ∧ (s.port 15).term.awakeUntil = some s.mc.clock ∧ (s.port 15).term.awakeDue = false
          ∧ (s.port 15).line.flight = some (flight (.charge 25) [.feed]) ∧ (s.port 15).dem.state = d
          ∧ (s.port 15).lineOpen = true ∧ (s.port 15).line.general.length = 3
          ∧ (s.port 15).line.item = some (item (.wake 5) .window) := by
  decide

/-- A window that closes now, for its expiry and for a RESULT that passes at both of its bounds. -/
def resultWindow : PortRecord :=
  { onLine fun l => { l with item := some (item test .running), window := some { ms := 1000000, sec := 1000 } } with
    feed := { live.feed with hold := true }
    term := { live.term with state := .testing } }

theorem witness_ResultWindowOutcomes :
    Steered (withPorts resultWindow) 15 ∧ resultWindow.line.window = some { ms := (withPorts resultWindow).ms, sec := 1000 }
      ∧ resultWindow.line.item = some (item test .running) ∧ resultWindow.lineOpen = true
      ∧ resultWindow.line.flight = none ∧ resultWindow.line.halt = none ∧ (100 : Byte).toNat ≤ 100
      ∧ (item test .running).work = .test 3 60 100 4400
      ∧ ((4800 : Half).toNat : Int) - (4700 : Half).toNat = 100 ∧ (4400 : Half).toNat = 4400 := by
  decide

theorem witness_DemandQualifiesAndEnds :
    (∃ (s : State) (p : Port) (t0 : Ms), Steered s p ∧ (s.port p).tim.qual = some t0 ∧ t0 + 100 = s.ms ∧ s.bu.grantOf p = none
        ∧ s.bu.requestOf p = none ∧ (s.port p).feed.latch = false ∧ (s.port p).feed.cooling = none
        ∧ (s.port p).term.state ≠ .absent ∧ (s.port p).got.mode ≠ .mains ∧ (s.port p).got.cutoff = false
        ∧ (s.port p).feed.target ≠ .full .lifeline ∧ (s.port p).line.item = some (item test .holding))
      ∧ ∃ (s : State) (p : Port) (t0 : Ms), Steered s p ∧ (s.port p).tim.onHook = some t0 ∧ t0 + 2000 = s.ms ∧ (s.port p).sup.deferred = true
        ∧ 1 ≤ (s.port p).setup.threshold ∧ (s.port p).setup.threshold = (s.port p).sup.silence
        ∧ (s.port p).line.item = none ∧ (s.port p).feed.latch = false :=
  ⟨⟨withPorts
        { onTim fun t => { t with qual := some 999900 } with
          got := { mode := .outage, shed := 0, cutoff := false }
          line := { live.line with item := some (item test .holding) } },
      15, 999900, by decide⟩,
    withPorts
      { onTim fun t => { t with onHook := some 998000 } with
        dem := { live.dem with state := .ending }
        sup := { live.sup with deferred := true, silence := 3 } },
    15, 998000, by decide⟩

/-- A call in OUTAGE of a port that holds a FEED grant, in FULL and in DUTY, and of one that waits behind and ahead of
others; and its end, where the policy gives FULL and DUTY. -/
theorem witness_KindChangesInPlace :
    let calls := fun (r : PortRecord) => { r with
      tim := { r.tim with qual := some 999900 }, got := { mode := .outage, shed := 0, cutoff := false }, line := busyLine [] }
    let s := fun (r : PortRecord) (b : Budget) => (withPorts (calls r)).setBu b
    let holds := { coldBudget with table := (Vector.replicate 64 none).set 0 (some fullGrant) }
    let asks := { coldBudget with queue := [{ feedRequest with port := 1, kind := .lifeline, arrival := 2 },
      { feedRequest with port := 2, tier := 1 }, feedRequest] }
    let ready := fun (r : PortRecord) => (calls r).feed.latch = false ∧ (calls r).feed.cooling = none
      ∧ (calls r).term.state ≠ .absent ∧ (calls r).got.mode ≠ .mains ∧ (calls r).got.cutoff = false
      ∧ (calls r).feed.target ≠ .full .lifeline ∧ (calls r).line.item = none
      ∧ (calls r).line.flight = some (flight (.charge 25) [.feed])
    (∀ r ∈ [fed, onFeed fun f => { f with state := .duty, target := .duty 4 .feed }],
        Steered (s r holds) 0 ∧ ready r ∧ (s r holds).bu.grantOf 0 = some fullGrant ∧ fullGrant.kind = .feed
          ∧ ((calls r).feed.state = .full ∨ (calls r).feed.state = .duty))
      ∧ (let r := onFeed fun f => { f with state := .waiting, target := .full .feed }
        Steered (s r asks) 0 ∧ ready r ∧ (s r asks).bu.grantOf 0 = none ∧ (s r asks).bu.requestOf 0 = some feedRequest)
      ∧ ∀ y ∈ [Policy.full, .duty 4],
        let r := { onFeed fun f => { f with target := .full .lifeline } with
          dem := { live.dem with state := .ending }, tim := { live.tim with onHook := some 998000 }
          got := { mode := .outage, shed := 0, cutoff := false }, setup := { live.setup with policy := y } }
        r.sup.deferred = false ∧ { r with dem := { r.dem with state := .idle } }.decision = y.target ∧ y.target ≠ .bias
          ∧ { fullGrant with kind := .lifeline }.kind = .lifeline := by
  decide

/-- A call while a test is in each of the phases past HOLDING, on a busy line and, in RUNNING, on a free one; and while
a wake runs. -/
theorem witness_DemandAbortsTest :
    let s := fun (i : Item) (l : Line) => withPorts
      { onTim fun t => { t with qual := some 999900 } with line := { l with item := some i } }
    (∀ i ∈ [item test .requested, item test .running, item test .ending, item (.wake 5) .window],
        Steered (s i (busyLine [])) 15 ∧ ((s i (busyLine [])).port 15).tim.qual = some 999900
          ∧ ((s i (busyLine [])).port 15).line.item = some i
          ∧ ((s i (busyLine [])).port 15).line.flight = some (flight (.charge 25) [.feed])
          ∧ ((s i (busyLine [])).port 15).lineOpen = true ∧ ((s i (busyLine [])).port 15).line.halt = none)
      ∧ Steered (s (item test .running) live.line) 15 ∧ ((s (item test .running) live.line).port 15).lineOpen = true
      ∧ live.line.flight = none ∧ live.line.halt = none := by
  decide

/-- The silence count just below the threshold, and at it. -/
theorem witness_SilenceEndsRequest :
    ∀ n ∈ [1, 2],
      let s := withPorts
        { onLine fun l => { l with flight := some (silentFlight [.task task, .poll]) } with
          sup := { live.sup with silence := n } }
      Steered s 15 ∧ (s.port 15).line.flight = some (silentFlight [.task task, .poll])
        ∧ (silentFlight [.task task, .poll]).start + 1400 = s.ms
        ∧ min ((s.port 15).sup.silence + 1) 7 + 2 = (s.port 15).setup.threshold + n
        ∧ (s.port 15).dem.state = .idle ∧ (s.port 15).line.item = none ∧ (s.port 15).feed.latch = false
        ∧ (s.port 15).hasBias = true ∧ (s.port 15).term.awakeDue = false ∧ (s.port 15).term.state ≠ .silent
        ∧ Owner.poll ∈ (silentFlight [.task task, .poll]).req.owners
        ∧ Owner.task task ∈ (silentFlight [.task task, .poll]).req.owners := by
  decide

/-! ### Witnesses: the answer frames -/

/-- A port whose flight is one owned by `os`, with an item. -/
def awaiting (b : Body) (os : List Owner) (i : Option Item) : PortRecord :=
  onLine fun l => { l with flight := some (flight b os), item := i }

theorem witness_StatusAccepted :
    let s := withPorts (awaiting .query [.task task, .poll] none)
    Steered s 15 ∧ (100 : Byte).toNat ≤ 100 ∧ (s.port 15).lineOpen = true
      ∧ (s.port 15).line.flight = some (flight .query [.task task, .poll])
      ∧ (flight .query [.task task, .poll]).windowOpen s.ms = true ∧ (s.port 15).term.awakeDue = false := by
  decide

/-- One flight of every kind but QUERY, with the owner each clause names. -/
theorem witness_AckAccepted :
    ∀ f ∈ [flight (.wake 5) [.task task], flight (.wake 5) [.item 11], flight .sleep [.task task],
        flight .sleep [.item 11], flight (.test 3 60) [.item 11], flight (.charge 0) [.feed], flight .halt [.item 11]],
      let s := withPorts (awaiting f.req.body f.req.owners (some (item test .requested)))
      Steered s 15 ∧ (s.port 15).lineOpen = true ∧ (s.port 15).line.flight = some f ∧ f.windowOpen s.ms = true
        ∧ f.req.body ≠ .query ∧ f.req.owners ≠ [] ∧ (s.port 15).line.item = some (item test .requested) := by
  decide

/-- A WAKE that has lost its owner, under a demand and on an otherwise empty line. -/
theorem witness_AckOfOwnerlessWake :
    ∀ d ∈ [DemandState.idle, .active],
      let s := withPorts { awaiting (.wake 5) [] none with dem := { live.dem with state := d } }
      Steered s 15 ∧ (s.port 15).lineOpen = true ∧ (s.port 15).line.flight = some (flight (.wake 5) [])
        ∧ (flight (.wake 5) []).windowOpen s.ms = true ∧ (s.port 15).dem.state = d ∧ (s.port 15).line.item = none
        ∧ (s.port 15).line.halt = none ∧ (s.port 15).line.charge = none ∧ (s.port 15).line.general = []
        ∧ s.bu.grantOf 15 = none ∧ (s.port 15).feed.state ≠ .full ∧ (s.port 15).feed.state ≠ .duty := by
  decide

theorem witness_RefuseAccepted :
    ∀ f ∈ [flight (.wake 5) [.item 11], flight .sleep [.task task], flight (.test 3 60) [.item 11]],
      let s := withPorts (awaiting f.req.body f.req.owners (some (item test .requested)))
      Steered s 15 ∧ (s.port 15).lineOpen = true ∧ (s.port 15).line.flight = some f ∧ f.windowOpen s.ms = true
        ∧ (f.req.body.kind = .wake ∨ f.req.body.kind = .sleep ∨ f.req.body.kind = .test) := by
  decide

/-! ### Witnesses: items and tasks at a port -/

/-- A record for each check, in the order of R127, the cooldown at both sides of its end. -/
theorem witness_StartCheckOrder :
    ([ ((onTerm fun t => { t with state := .absent }).startCheck 1000 test),
       ((onFeed fun f => { f with state := .fault }).startCheck 1000 test),
       ((onDem .ending).startCheck 1000 test),
       ((onTerm fun t => { t with state := .silent }).startCheck 1000 test),
       ({ live with bat := { last := none, cooldown := some 1001 } }.startCheck 1000 test),
       ((onGot .outage 2 false).startCheck 1000 (.wake 5)),
       ((onGot .hold 0 false).startCheck 1000 test),
       ({ live with bat := { last := none, cooldown := some 1000 } }.startCheck 1000 test),
       (live.startCheck 1000 (.wake 5)) ])
      = [some .skippedAbsent, some .skippedFault, some .skippedDemand, some .skippedSilent, some .skippedRecent,
         some .skippedShed, some .skippedBusy, none, none] := by
  decide

/-- A start claim turned away, one of a test and one of a wake with the last place free. -/
theorem witness_StartClaimAnswered :
    let s := fun (r : PortRecord) (w : Work) =>
      withPorts { r with line := busyLine (full4.take 3), box := { r.box with items := [.start 11 0 w] } }
    let claim := fun (r : PortRecord) (w : Work) => Steered (s r w) 15
      ∧ ((s r w).port 15).box.items = [.start 11 0 w] ∧ ((s r w).port 15).term.awakeDue = false
      ∧ ((s r w).port 15).line.flight = some (flight (.charge 25) [.feed])
      ∧ ((s r w).port 15).line.general.length = 3
    (claim (onDem .active) test ∧ ((s (onDem .active) test).port 15).startCheck 1000 test = some .skippedDemand)
      ∧ (claim live test ∧ ((s live test).port 15).startCheck 1000 test = none)
      ∧ claim live (.wake 5) ∧ ((s live (.wake 5)).port 15).startCheck 1000 (.wake 5) = none := by
  decide

/-- An abort of another item, of a test and a wake in each phase, the wake's window with the demand IDLE and standing
and the last place free; and of a test that runs on a free line. -/
theorem witness_AbortClaimTaken :
    (∀ c ∈ [((12 : Word), item test .holding, DemandState.idle), (11, item test .holding, .idle),
        (11, item test .requested, .idle), (11, item test .running, .idle), (11, item test .ending, .idle),
        (11, item (.wake 5) .requested, .idle), (11, item (.wake 5) .closing, .idle),
        (11, item (.wake 5) .window, .active), (11, item (.wake 5) .window, .idle)],
      let s := withPorts
        { onBox fun b => { b with items := [.abort c.1 .abortedHost] } with
          dem := { live.dem with state := c.2.2 }
          line := { busyLine (full4.take 3) with item := some c.2.1 } }
      Steered s 15 ∧ (s.port 15).box.items = [.abort c.1 .abortedHost] ∧ (s.port 15).line.item = some c.2.1
        ∧ (s.port 15).line.flight = some (flight (.charge 25) [.feed]) ∧ (s.port 15).term.awakeDue = false
        ∧ (s.port 15).sup.deferred = false ∧ (s.port 15).lineOpen = true ∧ (s.port 15).line.halt = none
        ∧ (flight (.charge 25) [.feed]).req.body ≠ .halt ∧ (s.port 15).dem.state = c.2.2
        ∧ (s.port 15).line.general.length = 3)
      ∧ (let s := withPorts { resultWindow with box := { live.box with items := [.abort 11 .abortedHost] } }
        Steered s 15 ∧ (s.port 15).line.item = some (item test .running)
          ∧ (s.port 15).box.items = [.abort (item test .running).num .abortedHost] ∧ (s.port 15).lineOpen = true
          ∧ (s.port 15).line.flight = none ∧ (s.port 15).line.halt = none ∧ (s.port 15).sup.deferred = false) := by
  decide

theorem witness_ClearAndCancelAtPort :
    (∃ (s : State) (p : Port), s.fitted p = true ∧ (s.port p).box.tasks = [.clear] ∧ Owner.task task ∈ (s.port p).line.owners
        ∧ HoldsSlot s task)
      ∧ (∃ (s : State) (p : Port), s.fitted p = true ∧ (s.port p).box.cancels = [task] ∧ Owner.task task ∈ (s.port p).line.owners
        ∧ HoldsSlot s task)
      ∧ ∃ (s : State) (p : Port), s.fitted p = true ∧ (s.port p).box.cancels = [task] ∧ Owner.task task ∉ (s.port p).line.owners
        ∧ (s.port p).box.tasks.any (fun c => c.ref == some task) = true := by
  refine ⟨⟨withPorts { onLine fun _ => busyLine [request .sleep [.task task]] with box := { live.box with tasks := [.clear] } }, 15, by decide, by decide,
      by decide, holds_task _⟩,
    ⟨withPorts { onLine fun _ => busyLine [request .sleep [.task task]] with box := { live.box with cancels := [task] } }, 15, by decide, by decide,
      by decide, holds_task _⟩,
    withPorts (onBox fun b => { b with cancels := [task], tasks := [.poll task] }), 15, by decide⟩

/-- The ways of a PORT POLL and a PORT SLEEP, and of a PORT RESTART. -/
theorem witness_TasksTakenAtPort :
    let s := fun (c : PortClaim) (r : PortRecord) =>
      withPorts { r with line := { busyLine [] with item := r.line.item }, box := { r.box with tasks := [c] } }
    let at_ := fun (c : PortClaim) (r : PortRecord) => HoldsSlot (s c r) task ∧ (s c r).fitted 15 = true
      ∧ ((s c r).port 15).box.tasks = [c] ∧ ((s c r).port 15).line.flight = some (flight (.charge 25) [.feed])
      ∧ ((s c r).port 15).term.awakeDue = false
    (at_ (.poll task) (onBox fun b => { b with kept := [task] })
        ∧ (onBox fun b => { b with kept := [task] }).box.kept.contains task = true)
      ∧ (at_ (.poll task) (onGot .hold 0 false) ∧ at_ (.wake task 5) (onDem .active) ∧ at_ (.sleep task) (onDem .ending))
      ∧ (at_ (.wake task 5) (onLine fun l => { l with item := some (item test .holding) })
        ∧ at_ (.sleep task) (onTerm fun t => { t with state := .absent })
        ∧ (onTerm fun t => { t with state := .absent }).lineOpen = false)
      ∧ (at_ (.poll task) live ∧ at_ (.wake task 5) live ∧ at_ (.sleep task) live ∧ live.lineOpen = true
        ∧ live.box.kept.contains task = false)
      ∧ at_ (.restart task) (onDem .active) ∧ at_ (.restart task) (onFeed fun f => { f with latch := true })
        ∧ at_ (.restart task) (onFeed fun f => { f with state := .off }) ∧ at_ (.restart task) live := by
  refine ⟨⟨⟨holds_task _, by decide⟩, by decide⟩, ⟨⟨holds_task _, by decide⟩, ⟨holds_task _, by decide⟩, ⟨holds_task _, by decide⟩⟩,
    ⟨⟨holds_task _, by decide⟩, ⟨holds_task _, by decide⟩, by decide⟩,
    ⟨⟨holds_task _, by decide⟩, ⟨holds_task _, by decide⟩, ⟨holds_task _, by decide⟩, by decide⟩,
    ⟨holds_task _, by decide⟩, ⟨holds_task _, by decide⟩, ⟨holds_task _, by decide⟩, ⟨holds_task _, by decide⟩⟩

/-- The three requests of a task, each on a closed line, with no place, with a free one, and beside a poll that stands
first and last: one alone, one merged with a census, one that a PORT POLL takes over. -/
theorem witness_TaskRequestsAtPlaces :
    let s := fun (c : PortClaim) (r : PortRecord) => withPorts { r with box := { r.box with tasks := [c] } }
    let places := fun l => onLine fun _ => busyLine l
    let poll := request .query [.poll, .census]
    let ready := fun (c : PortClaim) (r : PortRecord) => HoldsSlot (s c r) task ∧ (s c r).fitted 15 = true
      ∧ ((s c r).port 15).box.tasks = [c] ∧ ((s c r).port 15).term.awakeDue = false
      ∧ ((s c r).port 15).box.kept.contains task = false ∧ ((s c r).port 15).got.mode ≠ .hold
      ∧ ((s c r).port 15).dem.state = .idle ∧ ((s c r).port 15).line.item = none
    (∀ c r, c = .poll task ∨ c = .wake task 5 ∨ c = .sleep task →
        r = onTerm (fun t => { t with state := .absent })
          ∨ r = places full4 ∨ r = places (full4.take 3) ∨ r = places (poll :: full4.take 3)
          ∨ r = places (full4.take 3 ++ [poll]) ∨ r = places [poll] → ready c r)
      ∧ (onTerm fun t => { t with state := .absent }).lineOpen = false
      ∧ (places full4).lineOpen = true ∧ full4.any Request.isPollQuery = false ∧ full4.length = 4
      ∧ (full4.take 3).length = 3 ∧ poll.isPollQuery = true ∧ poll.owners.count .census = 1
      ∧ ∃ r, HoldsSlot (s (.restart task) r) task ∧ ((s (.restart task) r).port 15).box.kept.contains task = true := by
  refine ⟨?_, by decide, by decide, by decide, by decide, by decide, by decide, by decide,
    onBox fun b => { b with kept := [task] }, holds_task _, by decide⟩
  rintro c r (rfl | rfl | rfl) (rfl | rfl | rfl | rfl | rfl | rfl) <;> exact ⟨holds_task _, by decide⟩

/-! ### Witnesses: the campaign engine -/

def claiming (f : Engine → Engine) : State := withCe fun e => f { e with claims := [.campaign other plan] }
def seven : List Campaign := List.replicate 8 resting

theorem holds_other (f : Engine → Engine) : HoldsSlot (withCe f) other := ⟨_, _, _, rfl⟩

theorem witness_CampaignAcceptedAndStarted :
    (∃ s : State, s.ce.claims = [.campaign other plan] ∧ s.ce.kept.contains other = true ∧ HoldsSlot s other)
      ∧ (∃ s : State, s.ce.claims = [.campaign other plan] ∧ s.ce.kept.contains other = false ∧ s.ce.room = false
        ∧ HoldsSlot s other)
      ∧ (∃ s : State, s.ce.claims = [.campaign other plan] ∧ s.ce.kept.contains other = false ∧ s.ce.room = true
        ∧ s.ce.freeView = some 0 ∧ s.ce.active = none ∧ s.ce.mode = .hold)
      ∧ ∃ (s : State) (p : Port), s.ce.claims = [.campaign other plan] ∧ s.ce.kept.contains other = false
        ∧ s.ce.active = none ∧ s.ce.stack = [] ∧ s.ce.waiting = [] ∧ s.ce.mode ≠ .hold
        ∧ (plan.outageOnly = true → s.ce.mode = .outage) ∧ s.ce.admission = plan.priority ∧ 1 = plan.concurrency
        ∧ p.val < 63 ∧ s.fitted p = true ∧ plan.ports.getLsbD p.val = true
        ∧ ∀ q : Port, q.val < p.val → plan.ports.getLsbD q.val = false :=
  ⟨⟨claiming fun e => { e with kept := [other] }, by decide, by decide, holds_other _⟩,
    ⟨claiming fun e => { e with waiting := seven }, by decide, by decide, by decide, holds_other _⟩,
    ⟨claiming fun e => { e with mode := .hold }, by decide⟩,
    claiming fun e => { e with admission := 1 }, 0, by decide, by decide, by decide, by decide, by decide, by decide,
    by decide, by decide, by decide, by decide, by decide, by decide, fun q h => absurd h (Nat.not_lt_zero _)⟩

/-- The running campaign as it drains, its item's code final when it is cancelled, and as an OUTAGE_ONLY campaign. -/
def drainFor (d : DrainReason) : Campaign := { running with state := .draining, drain := some d }
def cancelled : Campaign := { drainFor .cancel with map := running.map.set 0 .abortedHost }
def outageRun : Campaign := { running with plan := { plan with outageOnly := true }, cursor := 1 }

theorem witness_EngineTakesMode :
    (∃ s : State, s.ce.modes = [.outage] ∧ s.ce.active = none ∧ s.ce.stack = [] ∧ s.ce.waiting = [])
      ∧ (∀ c ∈ [running, drainFor .suspend, drainFor .mode, drainFor .rest],
          let s := withCe fun e => { e with modes := [.hold], active := some c }
          s.ce.modes = [.hold] ∧ s.ce.active = some c ∧ c.flying = [entry] ∧ c.map[entry.port.val].final = false)
      ∧ ((drainFor .rest).roundStart = some 900 ∧ (drainFor .rest).roundsDone + 1 = (drainFor .rest).plan.rounds
        ∧ HoldsSlot base (drainFor .rest).task
        ∧ { drainFor .rest with plan := { plan with rounds := 2 } }.roundsDone + 2 = 2)
      ∧ (cancelled.flying = [entry] ∧ cancelled.map[entry.port.val].final = true ∧ cancelled.drain = some .cancel
        ∧ HoldsSlot base cancelled.task)
      ∧ ∀ m ∈ [Mode.mains, .outage],
        ∀ c ∈ [outageRun, { outageRun with flying := [] },
            { outageRun with state := .draining, drain := some .suspend },
            { outageRun with state := .draining, drain := some .rest },
            { outageRun with state := .draining, drain := some .cancel },
            { outageRun with state := .draining, drain := some .mode }],
          let s := withCe fun e => { e with modes := [m], active := some c }
          s.ce.modes = [m] ∧ s.ce.active = some c ∧ c.plan.outageOnly = true ∧ c.cursor < 64
            ∧ (c.flying = [] ∨ c.plan.concurrency ≤ c.flying.length) ∧ s.ce.waiting = [] ∧ s.ce.stack = [] :=
  ⟨⟨withCe fun e => { e with modes := [.outage] }, by decide⟩, by decide,
    ⟨by decide, by decide, ⟨_, _, _, rfl⟩, by decide⟩, ⟨by decide, by decide, by decide, ⟨_, _, _, rfl⟩⟩, by decide⟩

/-- A draining campaign with two items in flight, the reports of one of them and of no item. -/
def draining : Campaign :=
  { running with state := .draining, drain := some .rest, flying := [entry, { entry with port := 1, num := 12 }] }

theorem witness_EngineTakesAnswersAndResults :
    (∀ m ∈ [Report.answer 13 none, .result 13 .passed, .result 11 .passed, .answer 11 none,
        .answer 11 (some .skippedBusy)],
        let s := (withPorts (onBox fun b => { b with out := [m] })).setCe { coldEngine with active := some draining }
        (s.port 0).box.out = [m] ∧ s.ce.active = some draining)
      ∧ draining.entry 13 = none ∧ draining.entry 11 = some entry ∧ draining.state = .draining
      ∧ (draining.dropEntry 11).flying ≠ [] ∧ ResCode.passed.final = true
      ∧ draining.map[entry.port.val].final = false
      ∧ (draining.write 0 .passed).map[(0 : Port).val].final = true := by
  decide

/-- The last item end of the last round and of a round before it, and a rest that ends now. -/
theorem witness_RoundsEndAndResume :
    (∀ n ∈ [1, 2],
        let c := { running with
          state := .draining, drain := some .rest, roundStart := some 401, plan := { plan with rounds := n } }
        let s := (withPorts (onBox fun b => { b with out := [.ended 11] })).setCe { coldEngine with active := some c }
        (s.port 0).box.out = [.ended entry.num] ∧ s.ce.active = some c ∧ c.state = .draining ∧ c.drain = some .rest
          ∧ c.flying = [entry] ∧ s.ce.waiting = [] ∧ s.ce.stack = [] ∧ c.roundStart = some 401
          ∧ c.roundsDone + n = c.plan.rounds ∧ s.mc.clock + 1 = 401 + 60 * c.plan.interval)
      ∧ HoldsSlot base running.task
      ∧ ∃ s : State, s.ce.active = none ∧ s.ce.stack = [] ∧ s.ce.waiting = [resting] ∧ s.ce.mode ≠ .hold
        ∧ resting.plan.outageOnly = false ∧ s.ce.admission = resting.plan.priority
        ∧ resting.notBefore = some s.mc.clock ∧ resting.cursor = 64 ∧ 1 = resting.plan.concurrency ∧ resting.flying = []
        ∧ resting.plan.ports.getLsbD (0 : Port).val = true :=
  ⟨by decide, ⟨_, _, _, rfl⟩, withCe fun e => { e with waiting := [resting], admission := 1 }, by decide⟩

/-- A campaign that outranks the running one by one, its not-before time just reached. -/
def urgent : Campaign := { resting with plan := { plan with priority := 2 }, view := 1 }
def stacked : Campaign := { running with state := .suspended, flying := [], cursor := 1, plan := { plan with ports := 2 } }

theorem eligible_urgent (f : Engine → Engine) (h : (f base.ce).admission = 0) :
    EligibleIn .outage (withCe f) urgent :=
  ⟨fun n e => by cases e; exact Nat.le_refl 1000, by decide, by decide, Or.inr (h ▸ Nat.zero_le _)⟩

theorem witness_PreemptionByDraining :
    (∀ k ∈ [2, 3],
        let c := { running with cursor := 1 }
        let s := withCe fun e =>
          { e with mode := .outage, active := some c, waiting := [urgent], stack := List.replicate k stacked }
        s.ce.active = some c ∧ c.state = .running ∧ c.cursor < 64 ∧ c.flying ≠ []
          ∧ c.plan.concurrency ≤ c.flying.length ∧ s.ce.waiting = [urgent] ∧ s.ce.mode = .outage
          ∧ urgent.notBefore = some s.mc.clock ∧ c.plan.priority + 1 = urgent.plan.priority ∧ s.ce.stack.length = k)
      ∧ (∀ f : Engine → Engine, (f base.ce).admission = 0 → EligibleIn .outage (withCe f) urgent)
      ∧ (∀ w ∈ [[], [urgent]],
        let c := { drainFor .suspend with plan := { plan with ports := 3 }, cursor := 1 }
        let s := (withPorts (onBox fun b => { b with out := [.ended 11] })).setCe
          { coldEngine with mode := .outage, active := some c, waiting := w }
        (s.port 0).box.out = [.ended entry.num] ∧ s.ce.active = some c ∧ c.state = .draining
          ∧ c.drain = some .suspend ∧ c.flying = [entry] ∧ s.ce.mode ≠ .hold ∧ s.ce.waiting = w
          ∧ 1 = c.plan.concurrency ∧ c.cursor = 1 ∧ c.plan.ports.getLsbD 1 = true)
      ∧ (urgent.flying = [] ∧ urgent.cursor = 64 ∧ 1 = urgent.plan.concurrency ∧ urgent.NextIs 0 0)
      ∧ (∀ o ∈ [true, false], ∀ m ∈ [Mode.outage, .mains],
        let c := { stacked with plan := { stacked.plan with outageOnly := o } }
        let s := withCe fun e => { e with modes := [m], stack := [c] }
        s.ce.modes = [m] ∧ s.ce.active = none ∧ s.ce.waiting = [] ∧ s.ce.stack = [c] ∧ c.roundStart = some 900
          ∧ c.flying = [] ∧ 1 = c.plan.concurrency ∧ c.plan.outageOnly = o)
      ∧ stacked.NextIs stacked.cursor 1 :=
  ⟨by decide, eligible_urgent, by decide,
    ⟨by decide, by decide, by decide, by decide, by decide, by decide, fun q _ h => absurd h (Nat.not_lt_zero _)⟩,
    by decide, by decide, by decide, by decide, fun q h1 h2 => absurd h1 (by
      show ¬ 1 ≤ q.val
      exact Nat.not_le.mpr h2)⟩

theorem witness_EngineTakesCancelAndClear :
    (∃ s : State, s.ce.cancels = [other] ∧ s.ce.active = none ∧ s.ce.stack = [] ∧ s.ce.waiting = [resting]
        ∧ resting.task = other ∧ HoldsSlot s other)
      ∧ (∃ s : State, s.ce.cancels = [other] ∧ s.ce.active = some running ∧ running.task = other ∧ running.drain = none
        ∧ running.flying = [entry] ∧ running.map[entry.port.val].final = false)
      ∧ (∃ s : State, s.ce.cancels = [other] ∧ s.ce.active = none ∧ s.ce.stack = [] ∧ s.ce.waiting = []
        ∧ s.ce.claimed other = true)
      ∧ ∃ s : State, s.ce.claims = [.clear] ∧ s.ce.active = some running ∧ running ∈ s.ce.held
        ∧ HoldsSlot s running.task :=
  ⟨⟨withCe fun e => { e with cancels := [other], waiting := [resting] }, by decide, by decide, by decide, by decide,
      by decide, holds_other _⟩,
    ⟨withCe fun e => { e with cancels := [other], active := some running }, by decide⟩,
    ⟨claiming fun e => { e with cancels := [other] }, by decide⟩,
    withCe fun e => { e with claims := [.clear], active := some running }, by decide, by decide, by decide,
    holds_other _⟩

/-- CLEAR finds an active campaign, with its item in flight and with none, and one that waits for another slot. -/
theorem witness_EngineTakesClearOfTwo :
    ∀ c ∈ [running, { running with flying := [] }],
      let w := { resting with task := task }
      let s := withCe fun e => { e with claims := [.clear], active := some c, waiting := [w] }
      s.ce.claims = [.clear] ∧ (s.ce.held.map (·.task)).Nodup ∧ s.ce.active = some c ∧ w ∈ s.ce.waiting
        ∧ (c.flying = [entry] ∨ c.flying = []) ∧ running.map[entry.port.val].final = false
        ∧ s.ex.slots[(3 : Slot).val] = .taken w.task.take 0x55 (.port 0) false
        ∧ s.ex.slots[(4 : Slot).val] = .taken c.task.take 0x56 .engine false := by
  decide

/-! ### Witnesses: the gateway feed controller -/

theorem witness_GatewayFeedController :
    (∃ s : State, s.gw.modes = [.hold] ∧ s.gw.forcing = false ∧ s.gw.state = .on)
      ∧ (∃ s : State, s.gw.sheds = [2] ∧ s.gw.mode = .outage ∧ 2 + 1 = s.gw.shedLimit ∧ s.gw.forcing = true
        ∧ s.gw.state = .forcedOff)
      ∧ (∃ s : State, s.gw.modes = [.mains] ∧ s.gw.forcing = false ∧ s.gw.state = .bootWait ∧ s.gw.rest = .none)
      ∧ (∃ (s : State) (g : Time), s.gw.state = .grace ∧ s.gw.graceEnd = some g ∧ g = s.mc.clock)
      ∧ (∃ s : State, WakeCond.port ∈ s.gw.wakes ∧ s.gw.resting = true ∧ s.gw.mask &&& condMask .port ≠ 0)
      ∧ ∃ s : State, WakeCond.port ∈ s.gw.wakes ∧ s.gw.resting = false :=
  ⟨⟨withGw fun g => { g with modes := [.hold] }, by decide⟩,
    ⟨withGw fun g => { g with sheds := [2], mode := .outage, forcing := true, state := .forcedOff }, by decide⟩,
    ⟨withGw fun g => { g with modes := [.mains], state := .bootWait }, by decide⟩,
    ⟨withGw fun g => { g with state := .grace, grace := some .forced, graceEnd := some 1000 }, 1000, by decide⟩,
    ⟨withGw fun g => { g with state := .restOff, rest := .off, mask := 15, wakes := [.port] }, by decide⟩,
    withGw fun g => { g with wakes := [.port] }, by decide⟩

/-- The MAINS that ends a rest in each of its three kinds and one whose mask does not hold it, forcing that begins and
ends in every state, by a mode and by a shed level at the gateway shed level and just below it. -/
theorem witness_GatewayStatesAtModes :
    (∀ g ∈ [(GwState.on, none, RestType.idle), (.grace, some GraceKind.voluntary, .off), (.restOff, none, .off)],
        ∀ m ∈ [(8 : BitVec 4), 7],
        let s := withGw fun w =>
          { w with state := g.1, grace := g.2.1, rest := g.2.2, mask := m, modes := [.mains], forcing := false }
        s.gw.modes = [.mains] ∧ s.gw.forcing = false ∧ (s.gw.mask &&& condMask .mains ≠ 0 ↔ m = 8)
          ∧ s.gw.state = g.1 ∧ s.gw.grace = g.2.1 ∧ s.gw.rest = g.2.2)
      ∧ (∀ g ∈ [(GwState.on, none), (.grace, some GraceKind.voluntary), (.grace, some .forced), (.restOff, none),
          (.forcedOff, none), (.bootWait, none)], ∀ forcing ∈ [true, false], ∀ m ∈ [Mode.mains, .outage, .hold],
        ∀ n ∈ [2, 3],
        let s := withGw fun w =>
          { w with state := g.1, grace := g.2, forcing := forcing, modes := [m], sheds := [n], shed := n, mode := .outage }
        s.gw.modes = [m] ∧ s.gw.sheds = [n] ∧ s.gw.mode = .outage ∧ s.gw.shed = n ∧ s.gw.forcing = forcing
          ∧ s.gw.state = g.1 ∧ s.gw.grace = g.2 ∧ s.gw.rest = .none ∧ (s.gw.shedLimit ≤ n ↔ n = 3)) := by
  decide

/-! ### Witnesses: the exchange port -/

theorem witness_SpiTransactions :
    base.ex.spi = .idle ∧ (0x01 : Byte) ≠ 0x02 ∧ (0x01 : Byte) ≠ 0x03
      ∧ (withEx fun e => { e with spi := .reading 0x10000 }).ex.spi = .reading (0xFFFF + 1)
      ∧ (withEx fun e => { e with spi := .writing 0x11 [1] false }).ex.spi = .writing 0x11 [1] false
      ∧ ∀ x b r st, base.ex.spi ≠ .writing x (b :: r) st :=
  ⟨rfl, by decide, by decide, by decide, by decide, by intro x b r st; nofun⟩

/-- What a read finds at the bounds of the areas, with a slot in each state and port 0 at ATTENTION. -/
theorem test_bytes_read :
    let s := (withPorts { live with rep := { live.rep with status := 0x0102, enable := 0x0100 } }).setEx
      { plainExchange with
        slots := ((holding.set 5 .posted).set 6 .done).set 7 (.taken 9 0 .engine true)
        mem := Memory.write [] 0x3FF [1, 2] }
    [0x00, 0x01, 0x02, 0x03, 0x04, 0x0F, 0x10, 0x14, 0x18, 0x1C, 0x30, 0x31, 0x32, 0x38, 0x100, 0x101, 0x103, 0x140,
        0x143, 0x3FF, 0x400, 0x3A00].map s.readByte
      = [0x64, 0x0D, 16, 0, 0, 0, 0x20, 0x80, 0x98, 0x40, 0xFF, 0xFF, 0, 0, 2, 1, 1, 0, 0, 0, 2, 0] := by
  decide +kernel

/-- A POST of a FREE and of a TAKEN slot, and a CANCEL of a slot in each state. -/
theorem witness_PostAndCancelWrites :
    (base.ex.writable 0x10 = some ([], false) ∧ base.ex.slots[31] = .free ∧ base.ex.slots[3] ≠ .free
        ∧ (0x80000008 : Word).getLsbD 31 = true ∧ (0x80000008 : Word).getLsbD 3 = true)
      ∧ ∀ st ∈ [SlotState.posted, .taken 7 0x55 (.port 0) false, .taken 7 0x55 .engine false, .free, .done,
        .taken 7 0x55 .engine true],
        let s := withEx fun e => { e with slots := holding.set 31 st }
        s.ex.writable 0x14 = some ([], false) ∧ s.ex.slots[31] = st := by
  decide

theorem witness_FlagWordWrites :
    (∀ a ∈ [0x1C, 0x20, 0x24, 0x28, 0x2C], base.ex.writable a = some ([], false))
      ∧ ∀ w ∈ [ReadOnlyWord.identity, .taken, .attentionLow, .attentionHigh],
        base.ex.writable (readOnlyBase w) = some ([], false) := by
  decide

theorem witness_PortWordWrites :
    let at_ := fun (p : Port) (fit : Bool) => base.fitted p = fit
      ∧ base.ex.writable (0x100 + 4 * p.val) = some ([], false) ∧ base.ex.writable (0x102 + 4 * p.val) = some ([], false)
    at_ 0 true ∧ at_ 15 true ∧ at_ 16 false ∧ at_ 63 false := by
  decide

/-- The first and the last address of each range: a card half, a result half, and the addresses that store nothing. -/
theorem witness_PlainByteWritten :
    let free := fun a : Nat => base.ex.slots[(31 : Slot).val] = .free ∧ slotBase 31 ≤ a ∧ a < slotBase 31 + 64
    let held := fun a : Nat => base.ex.slots[(3 : Slot).val] ≠ .free ∧ slotBase 3 ≤ a ∧ a < slotBase 3 + 64
    let result := fun a : Nat => resultBase 0 ≤ a ∧ a < resultBase 0 + 64
    let bare := fun a : Nat => (0x04 ≤ a ∧ a < 0x10) ∨ (0x38 ≤ a ∧ a < 0x100) ∨ (0x200 ≤ a ∧ a < 0x400) ∨ 0x1400 ≤ a
    base.ex.spi = .idle ∧ (free 0x1380 ∧ free 0x13BF) ∧ (held 0x580 ∧ held 0x5BF) ∧ (result 0x440 ∧ result 0x47F)
      ∧ bare 0x04 ∧ bare 0x0F ∧ bare 0x38 ∧ bare 0xFF ∧ bare 0x200 ∧ bare 0x3FF ∧ bare 0x1400 ∧ bare 0x10000 := by
  refine ⟨rfl, ?_, ?_, ?_, ?_, ?_, ?_, ?_, ?_, ?_, ?_, ?_⟩ <;> decide

/-- Every byte of the active words and of the words of the last fitted port and of the first that is not, in a
transaction that stands there: begun inside, in its turn, and the last one. -/
theorem witness_WordBytesWritten :
    let at_ := fun (a : Nat) (word : List Byte) (stray : Bool) =>
      (base.spiAt a word stray).ex.writable a = some (word, stray)
    (∀ w ∈ activeWords.map (·.1), ∀ stray ∈ [false, true],
        at_ (w + 1) [] stray ∧ at_ (w + 3) [] stray ∧ at_ w [] stray ∧ at_ (w + 1) [1] stray
          ∧ at_ (w + 2) [1, 2] stray ∧ at_ (w + 3) [1, 2, 3] stray)
      ∧ (base.fitted 15 = true ∧ (pageWords 15).map (·.1) = [0x13C, 0x13E] ∧ at_ 0x13C [] false ∧ at_ 0x13D [] false
        ∧ at_ 0x13F [1] false)
      ∧ (base.fitted 16 = false ∧ at_ 0x140 [] false ∧ at_ 0x143 [] false)
      ∧ base.ex.writable 0xFFFF = some ([], false) ∧ base.ex.writable 0x10000 = none := by
  refine ⟨?_, ?_, ?_, ?_⟩ <;> decide

/-- An unknown kind at both ends; the last fitted port, and the ports from the first that is not to the last byte. -/
theorem witness_IntakeTakesHead :
    let byte_ := fun (c : List Nat) (n : Nat) => cardByte (Memory.run (posted c).ex.mem (slotBase 5) 64) n
    ((posted [13]).ex.intake = [5] ∧ 12 < byte_ [13] 0 ∧ byte_ [0] 0 = 0)
      ∧ ([2, 3, 4, 5].map fun k => byte_ [k, 0, 0, 0, 15, 1] 0) = [2, 3, 4, 5]
      ∧ byte_ [3, 0, 0, 0, 15, 1] 5 = 1 ∧ byte_ [2, 0, 0, 0, 15] 4 = (15 : Port).val
      ∧ (posted [2, 0, 0, 0, 15]).fitted 15 = true ∧ fitCount (posted [2]).mc.fit = 16
      ∧ ([16, 63, 64, 255].map fun p => byte_ [6, 0, 0, 0, p] 4) = [16, 63, 64, 255] := by
  decide +kernel

/-- What the intake reads from a card. -/
def readPosted (c : List Nat) : Read := readCard .fit16 40 10 (Memory.run (posted c).ex.mem (slotBase 5) 64)

/-- A card for each field at the first value outside its range, and a card at both ends of every range. -/
def badCards : List (List Nat) :=
  [ [1, 0, 0, 0, 0, 4, 25, 0, 0, 0, 30, 0, 0], [1, 0, 0, 0, 0, 0, 0, 0, 0, 0, 30, 0, 0],
    [1, 0, 0, 0, 0, 0, 41, 0, 0, 0, 30, 0, 0], [1, 0, 0, 0, 0, 0, 25, 3, 0, 0, 30, 0, 0],
    [1, 0, 0, 0, 0, 0, 25, 1, 0, 0, 30, 0, 0], [1, 0, 0, 0, 0, 0, 25, 1, 8, 0, 30, 0, 0],
    [1, 0, 0, 0, 0, 0, 25, 0, 0, 3, 30, 0, 0], [1, 0, 0, 0, 0, 0, 25, 0, 0, 0, 29, 0, 0],
    [1, 0, 0, 0, 0, 0, 25, 0, 0, 0, 17, 14, 0], [1, 0, 0, 0, 0, 0, 25, 0, 0, 0, 30, 0, 8],
    [3, 0, 0, 0, 0, 0], [10, 0, 0, 0, 4], [11, 0, 0, 0, 2, 1], [11, 0, 0, 0, 0, 16], [11, 0, 0, 0, 1, 0] ]
def badBudgets : List (List Nat) :=
  [ [7, 0, 0, 0, 0, 0, 0, 0, 0, 0, 0, 0, 0, 0, 0, 0, 1, 5, 10], [7, 0, 0, 0, 1, 0, 0, 0, 2, 0, 0, 0, 0, 0, 0, 0, 1, 5, 10],
    [7, 0, 0, 0, 1, 0, 0, 0, 0, 0, 0, 0, 0, 0, 0, 0, 0, 5, 10], [7, 0, 0, 0, 1, 0, 0, 0, 0, 0, 0, 0, 0, 0, 0, 0, 5, 5, 10],
    [7, 0, 0, 0, 1, 0, 0, 0, 0, 0, 0, 0, 0, 0, 0, 0, 1, 4, 10], [7, 0, 0, 0, 1, 0, 0, 0, 0, 0, 0, 0, 0, 0, 0, 0, 1, 121, 10],
    [7, 0, 0, 0, 1, 0, 0, 0, 0, 0, 0, 0, 0, 0, 0, 0, 1, 5, 9], [7, 0, 0, 0, 1, 0, 0, 0, 0, 0, 0, 0, 0, 0, 0, 0, 1, 5, 89, 2],
    [7, 0, 0, 0, 1, 0, 0, 0, 0, 0, 0, 0, 0, 0, 0, 0, 1, 5, 10, 0, 25] ]
/-- A CAMPAIGN card from its bytes 4 to 12 (one byte of the set) and 20 to 28. -/
def campaignCard (head params : List Nat) : List Nat := [9, 0, 0, 0] ++ head ++ List.replicate 7 0 ++ params
def badCampaigns : List (List Nat) :=
  let ok := [1, 10, 0, 1, 0, 0, 0]
  [ campaignCard [2, 0, 1, 1, 0, 0, 0, 0, 1] ok, campaignCard [0, 4, 1, 1, 0, 0, 0, 0, 1] ok,
    campaignCard [0, 0, 0, 1, 0, 0, 0, 0, 1] ok, campaignCard [0, 0, 1, 0, 0, 0, 0, 0, 1] ok,
    campaignCard [0, 0, 1, 9, 0, 0, 0, 0, 1] ok, campaignCard [0, 0, 1, 1, 161, 5, 0, 0, 1] ok,
    campaignCard [0, 0, 1, 1, 0, 0, 2, 0, 1] ok, campaignCard [0, 0, 1, 1, 0, 0, 0, 0, 0] ok,
    campaignCard [0, 0, 1, 1, 0, 0, 0, 0, 1] [0, 0, 10, 0, 1], campaignCard [0, 0, 1, 1, 0, 0, 0, 0, 1] [11, 0, 10, 0, 1],
    campaignCard [0, 0, 1, 1, 0, 0, 0, 0, 1] [1, 0, 9, 0, 1], campaignCard [0, 0, 1, 1, 0, 0, 0, 0, 1] [1, 0, 89, 2, 1],
    campaignCard [0, 0, 1, 1, 0, 0, 0, 0, 1] [1, 0, 10, 0, 0], campaignCard [0, 0, 1, 1, 0, 0, 0, 0, 1] [1, 0, 10, 0, 233, 3],
    campaignCard [1, 0, 1, 1, 0, 0, 0, 0, 1] ok ]

theorem test_first_values_out_of_range_are_bad_fields :
    ∀ c ∈ badCards ++ badBudgets ++ badCampaigns, readPosted c = .bad .badField := by
  decide +kernel

/-- The ranges of section 11-3 say so of a posted card. -/
def outOfRange (c : List Nat) : Bool :=
  @decide (CardOutOfRange (posted c) (Memory.run (posted c).ex.mem (slotBase 5) 64)) (by
    unfold CardOutOfRange
    infer_instance)

/-- Every one of these cards is out of range, and no card at both ends of every range is. -/
theorem witness_CardOutOfRange :
    (badCards ++ badBudgets ++ badCampaigns).all outOfRange = true
      ∧ ([ [1, 0, 0, 0, 0, 3, 40, 1, 7, 2, 16, 14, 7], [1, 0, 0, 0, 0, 0, 1, 1, 1, 0, 30, 0, 0],
           [7, 0, 0, 0, 1, 0, 0, 0, 1, 0, 0, 0, 0, 0, 0, 0, 4, 120, 88, 2, 24],
           [7, 0, 0, 0, 1, 0, 0, 0, 0, 0, 0, 0, 0, 0, 0, 0, 1, 5, 10, 0, 0],
           campaignCard [0, 3, 1, 8, 160, 5, 1, 0, 1] [10, 0, 88, 2, 232, 3],
           campaignCard [0, 0, 255, 1, 0, 0, 0, 0, 1] [1, 0, 10, 0, 1, 0],
           campaignCard [1, 0, 1, 1, 0, 0, 0, 0, 1] [0, 0, 0, 0, 0, 0, 0, 0, 1] ].any outOfRange) = false := by
  decide +kernel

/-- The cards of the kinds the intake settles, as section 12-3 lays them out. -/
def setupCard : List Nat := [1, 0, 0, 0, 0, 0, 40, 1, 7, 0, 30, 0, 7]
def budgetCard : List Nat := [7, 0, 0, 0, 244, 1, 144, 1, 0, 0, 144, 1, 200, 0, 100, 0, 4, 5, 10, 0, 24]
def envelopeCard : List Nat := [8, 0, 0, 0, 100, 0, 0, 0, 224, 16, 40, 10]

theorem witness_SetupCardRead :
    readPosted setupCard = .ok (.portSetup 0
        { tier := 0, limit := 40, policy := .duty 7, wish := .auto, pollInterval := 30, threshold := 7 })
      ∧ live.feed.started = true ∧ live.feed.offTime = none ∧ live.sup.deferred = false
      ∧ live.setup.threshold ≤ 7 ∧ live.Unheld { slot := 5, take := (posted setupCard).ex.takeNo + 1 } := by
  decide +kernel

/-- A PORT SETUP that leaves the target of a port fed under a grant of 25 at tier 2, and of one that waits: a code just
below and just above, another tier, and neither. -/
theorem witness_SetupChangesLimitAndTier :
    ∀ c ∈ [(2, 24), (2, 26), (1, 25), (2, 25)],
      let n : Setup := { live.setup with tier := c.1, limit := c.2 }
      readPosted [1, 0, 0, 0, 0, c.1, c.2, 0, 0, 0, 44, 1, 3] = .ok (.portSetup 0 n)
        ∧ fullGrant.amount = 25 ∧ fullGrant.tier = 2 ∧ feedRequest.amount = 25 ∧ feedRequest.tier = 2
        ∧ ∀ st ∈ [FeedState.full, .duty, .waiting],
          let r := { onFeed fun f => { f with state := st, target := .full .feed } with
            got := { mode := .outage, shed := 0, cutoff := false } }
          { r with setup := n }.decision = r.feed.target ∧ r.feed.started = true ∧ r.feed.offTime = none
            ∧ r.sup.deferred = false ∧ r.setup.threshold ≤ n.threshold := by
  decide +kernel

/-- A BUDGET SETUP card, the floors about its T1, and the estimate that stands as it keeps it: unset, at the capacity,
and above it. -/
theorem witness_BudgetCardRead :
    let b : BudgetCard :=
      { capacity := 500, estimate := 400, keep := false, thresholds := levels, shedLimit := 4, grace := 5
        restoreQual := 10, alarmHours := 24 }
    readPosted budgetCard = .ok (.budget b) ∧ b.badOrder 99 = false ∧ b.badOrder 100 = true
      ∧ readPosted (budgetCard.set 8 1) = .ok (.budget { b with keep := true })
      ∧ levels.t2 < levels.t3 ∧ levels.t1 < levels.t2 ∧ 99 < levels.t1 ∧ levels.t3 ≤ b.capacity
      ∧ coldBudget.estimate = none ∧ (budgetAt 500).estimate = some b.capacity
      ∧ (budgetAt 501).estimate = some (b.capacity + 1) := by
  decide +kernel

/-- An ENVELOPE card; the first values below and above each range, and both ends of it; and the order checks. -/
theorem witness_EnvelopeCardRead :
    let e : Envelope := { ceiling := 100, floor := 0, cutoff := 4320, limitMax := 40, loadMax := 10 }
    readPosted envelopeCard = .ok (.envelope e) ∧ base.mc.lock = none ∧ e.badField = false
      ∧ e.badOrder base.bu = false ∧ (withMc fun m => { m with lock := some (.expired, 900) }).mc.lock ≠ none
      ∧ ([9, 10, 4000, 4001].map fun n => { e with ceiling := n }.badField) = [true, false, false, true]
      ∧ ([3599, 3600, 5600, 5601].map fun n => { e with cutoff := n }.badField) = [true, false, false, true]
      ∧ ([0, 1, 63, 64].map fun n => { e with limitMax := n }.badField) = [true, false, false, true]
      ∧ ([0, 1, 15, 16].map fun n => { e with loadMax := n }.badField) = [true, false, false, true]
      ∧ ([39, 40].map fun n => { e with ceiling := n }.badOrder base.bu) = [true, false]
      ∧ ([99, 100].map fun n => { e with floor := n }.badOrder (budgetAt 0)) = [false, true]
      ∧ ([500, 501].map fun n => { e with floor := n }.badOrder { budgetAt 0 with thresholds := none })
        = [false, true] := by
  decide +kernel

theorem witness_OtherCardsRead :
    readPosted [10, 0, 0, 0, 3] = .ok (.admission 3) ∧ readPosted [6, 0, 0, 0, 15] = .ok (.portClear 15)
      ∧ readPosted [11, 0, 0, 0, 1, 15] = .ok (.rest true 15) ∧ readPosted [11, 0, 0, 0, 0, 0] = .ok (.rest false 0)
      ∧ readPosted [12] = .ok .clear
      ∧ (onFeed fun f => { f with latch := true, short := true }).feed.short = true
      ∧ live.feed.latch = false ∧ base.ce.active = none ∧ base.ce.stack = [] ∧ base.ce.waiting = [] := by
  decide +kernel

/-- A gateway in every state in which a GATEWAY REST finds it. -/
theorem witness_GatewayRestStates :
    ∀ g ∈ [(GwState.on, none), (.grace, some GraceKind.voluntary), (.grace, some .forced), (.forcedOff, none),
        (.restOff, none), (.bootWait, none)],
      let s := withGw fun w => { w with state := g.1, grace := g.2 }
      s.gw.state = g.1 ∧ s.gw.grace = g.2 ∧ s.gw.wakes = [] ∧ s.ex.doneEn.getLsbD 5 = false := by
  decide

theorem witness_RewritesTaken :
    let s := (withEx fun e => { e with views := [.port 63, .partStatus, .campaign 11], grantViews := 1 }).setCe
      { coldEngine with active := some { running with view := 11 } }
    ViewId.port 63 ∈ s.ex.views ∧ ViewId.partStatus ∈ s.ex.views ∧ ViewId.campaign 11 ∈ s.ex.views
      ∧ s.ce.shown 11 = some { running with view := 11 } ∧ s.ex.grantViews ≠ 0 := by
  decide +kernel

/-! ### One command each -/

/-- The state after a command. -/
def after (c : Instr) (s : State) : State :=
  match exec c s with
  | .next t => t
  | .fault _ | .refused _ => s

theorem test_demand_signal_starts_the_qualification_timer :
    ((after (.demandSignalPresent 0) base).port 0).tim.qual = some 1000000 := by decide +kernel
theorem test_third_trip_latches : ((after (.trip 0) (tripping [401, 402])).port 0).feed.state = .fault := by
  decide +kernel
theorem test_second_trip_of_a_second_is_listed_once :
    ((after (.trip 0) (tripping [401, 1000])).port 0).feed.trips = [401, 1000]
      ∧ ((after (.trip 0) (tripping [401, 1000])).port 0).feed.state = .tripped := by decide +kernel
theorem test_reset_before_the_first_data_byte_cuts_the_transaction :
    (after .resetLine (after (.spiRead 0x400 0) base)).ex.spi = .blocked
      ∧ (after .resetLine (after (.plainWrite 0x400 []) base)).ex.spi = .blocked
      ∧ (after .resetLine base).ex.spi = .idle := by
  decide +kernel
theorem test_a_cleared_event_lets_attn_fall :
    (after (.partEventEnableWrite 1) (withEx fun e => { e with partEvent := 1 })).ex.attn = true
      ∧ (after (.partEventWrite 1) (withEx fun e => { e with partEvent := 1, partEventEn := 1 })).ex.attn = false := by
  decide +kernel
theorem test_post_queues_the_slot : (after (.postWrite 1) base).ex.intake = [0] := by decide +kernel
theorem test_admission_card_sets_the_level : (after .intakeTake (posted [10, 0, 0, 0, 3])).ce.admission = 3 := by
  decide +kernel
theorem test_cutoff_sends_an_outage_to_hold :
    (after (.bankSample 4319 0) (withMc fun m => { m with mode := .outage, cutEntry := some 995 })).mc.mode = .hold := by
  decide +kernel
theorem test_poll_begins_on_an_idle_line :
    ((after (.pollDue 0) (withPorts (onSup fun u => { u with pollDue := some 1000 }))).port 0).line.flight
      = some { req := pollQuery, phase := .firstSend, start := 1000000 } := by decide +kernel
theorem test_step_on_an_empty_queue_is_a_millisecond : step base = .next { base with ms := 1000001 } := rfl

/-- An IDLE rest that its DONE condition ends and the same card begins again: the record reads as before and is asked
for (R146). -/
theorem test_rest_begun_again_asks_for_the_record :
    let s := (posted [11, 0, 0, 0, 0, 1]).setGw { base.gw with rest := .idle, mask := 1, wakes := [.done] }
    (after .intakeTake s).psrShown = s.psrShown ∧ (after .intakeTake s).ex.views = [.partStatus]
      ∧ (after .intakeTake s).ex.wakeCause = 1 := by
  decide +kernel

/-- A FEED grant taken back for a lifeline and made again in one serving: the port's view reads as before and is asked
for (R19). -/
theorem test_granted_again_asks_for_the_view :
    let s := (((withPorts (onFeed fun f => { f with state := .waiting, target := .full .lifeline })).setPort 1
      { fed with line := busyLine [] }).setPort 2 fed).setBu { coldBudget with
        due := true, orders := 2, ceiling := 33, queue := [{ feedRequest with amount := 10, kind := .lifeline }]
        table := ((Vector.replicate 64 none).set 1 (some { fullGrant with amount := 5, order := 2 })).set 2
          (some fullGrant) }
    (after .grantQueueServe s).portBytes 1 = s.portBytes 1
      ∧ (after .grantQueueServe s).ex.views.count (.port 1) = 1 := by
  decide +kernel

end Sys2Proof.Tests
end

section
/-! The judgement of the cutoff condition at a bank sample (R87 to R89): what a judged sample makes of the mode
controller, what the sample's other work leaves of it, and what a change of the condition hands on. -/

namespace Sys2Proof.Machine.CutoffJudgement

/-! ### One sample judged -/

/-- The mode controller with other floor conditions waiting to be taken (R62). -/
def withFloors (c : ModeCtl) (fs : List Bool) : ModeCtl := { c with floors := fs }

/-- The sample `v` takes the mode controller from `c` to `d`, whichever floor conditions wait: the same event may have
handed one on before the judgement (R62). -/
def Judged (c : ModeCtl) (v : Nat) (d : ModeCtl) : Prop := ∀ fs, (withFloors c fs).judge v = withFloors d fs

/-- Not in force, at or above the cutoff voltage: the entry timer stops (R87). -/
theorem judge_stops_entry {c : ModeCtl} {v : Nat} (hc : c.cutoff = false) (hv : c.env.cutoff ≤ v) :
    Judged c v { c with cutEntry := none } := by
  simp [Judged, withFloors, ModeCtl.judge, hc, Nat.not_lt.2 hv]

/-- Not in force, below the cutoff voltage with the entry timer stopped: it starts (R87). -/
theorem judge_starts_entry {c : ModeCtl} {v : Nat} (hc : c.cutoff = false) (hv : v < c.env.cutoff)
    (ht : c.cutEntry = none) : Judged c v { c with cutEntry := some c.clock } := by
  simp [Judged, withFloors, ModeCtl.judge, hc, hv, ht]

/-- Not in force, below the cutoff voltage short of 5 s from the timer's start: nothing moves (R87). -/
theorem judge_runs_entry {c : ModeCtl} {v : Nat} {t0 : Time} (hc : c.cutoff = false) (hv : v < c.env.cutoff)
    (ht : c.cutEntry = some t0) (hr : c.clock < t0 + Config.cutoffEntry) : Judged c v c := by
  simp [Judged, withFloors, ModeCtl.judge, hc, hv, ht, Nat.not_le.2 hr]

/-- Not in force, below the cutoff voltage 5 s or more from the timer's start: cutoff comes into force (R87). -/
theorem judge_enters {c : ModeCtl} {v : Nat} {t0 : Time} (hc : c.cutoff = false) (hv : v < c.env.cutoff)
    (ht : c.cutEntry = some t0) (hr : t0 + Config.cutoffEntry ≤ c.clock) :
    Judged c v { c with cutoff := true, cutEntry := none, cutTime := some c.clock } := by
  simp [Judged, withFloors, ModeCtl.judge, hc, hv, ht, hr]

/-- In force, below the lift voltage: the lift timer stops (R88). -/
theorem judge_stops_lift {c : ModeCtl} {v : Nat} (hc : c.cutoff = true)
    (hv : v < c.env.cutoff + Config.liftMargin) : Judged c v { c with cutLift := none } := by
  simp [Judged, withFloors, ModeCtl.judge, hc, Nat.not_le.2 hv]

/-- In force, at or above the lift voltage with the lift timer stopped: it starts (R88). -/
theorem judge_starts_lift {c : ModeCtl} {v : Nat} (hc : c.cutoff = true)
    (hv : c.env.cutoff + Config.liftMargin ≤ v) (ht : c.cutLift = none) :
    Judged c v { c with cutLift := some c.clock } := by
  simp [Judged, withFloors, ModeCtl.judge, hc, hv, ht]

/-- In force, at or above the lift voltage short of 60 s from the timer's start: nothing moves (R88). -/
theorem judge_runs_lift {c : ModeCtl} {v : Nat} {t0 : Time} (hc : c.cutoff = true)
    (hv : c.env.cutoff + Config.liftMargin ≤ v) (ht : c.cutLift = some t0)
    (hr : c.clock < t0 + Config.cutoffLift) : Judged c v c := by
  simp [Judged, withFloors, ModeCtl.judge, hc, hv, ht, Nat.not_le.2 hr]

/-- In force, at or above the lift voltage 60 s or more from the timer's start: cutoff is lifted (R88). -/
theorem judge_lifts {c : ModeCtl} {v : Nat} {t0 : Time} (hc : c.cutoff = true)
    (hv : c.env.cutoff + Config.liftMargin ≤ v) (ht : c.cutLift = some t0)
    (hr : t0 + Config.cutoffLift ≤ c.clock) : Judged c v { c with cutoff := false, cutLift := none } := by
  simp [Judged, withFloors, ModeCtl.judge, hc, hv, ht, hr]

/-- A judgement that keeps the condition moves the mode controller alone. -/
theorem judgeCutoff_steady {s : State} {v : Nat} (h : (s.mc.judge v).cutoff = s.mc.cutoff) :
    s.judgeCutoff v = s.setMc (s.mc.judge v) := by
  simp [State.judgeCutoff, h]

/-- A judgement that changes the condition hands the change on (R89). -/
theorem judgeCutoff_changes {s : State} {v : Nat} (h : (s.mc.judge v).cutoff ≠ s.mc.cutoff) :
    s.judgeCutoff v = (s.setMc (s.mc.judge v)).cutoffChanged := by
  simp [State.judgeCutoff, h]

/-! ### What stands of the cutoff condition -/

/-- The cutoff condition, its two timers and its time are the same. -/
structure SameCutoff (c d : ModeCtl) : Prop where
  cutoff : d.cutoff = c.cutoff
  entry : d.cutEntry = c.cutEntry
  lift : d.cutLift = c.cutLift
  time : d.cutTime = c.cutTime

theorem SameCutoff.refl (c : ModeCtl) : SameCutoff c c := ⟨rfl, rfl, rfl, rfl⟩

theorem SameCutoff.trans {c d e : ModeCtl} (h : SameCutoff c d) (k : SameCutoff d e) : SameCutoff c e :=
  ⟨k.cutoff.trans h.cutoff, k.entry.trans h.entry, k.lift.trans h.lift, k.time.trans h.time⟩

/-- From `s` to `t` the cutoff condition and its changes handed to the ports stand, and no part event is cleared. -/
structure CutoffKept (s t : State) : Prop where
  same : SameCutoff s.mc t.mc
  handed : ∀ p, (t.port p).box.cutoffs = (s.port p).box.cutoffs
  events : ∀ e, Raised s e → Raised t e

theorem CutoffKept.refl (s : State) : CutoffKept s s := ⟨.refl _, fun _ => rfl, fun _ => id⟩

theorem CutoffKept.trans {s t u : State} (h : CutoffKept s t) (k : CutoffKept t u) : CutoffKept s u :=
  ⟨h.same.trans k.same, fun p => (k.handed p).trans (h.handed p), fun e => k.events e ∘ h.events e⟩

@[simp] theorem raise_mc (s : State) (e : PartEvent) : (s.raise e).mc = s.mc := by
  simp only [State.raise]
  split <;> rfl

@[simp] theorem raise_port (s : State) (e : PartEvent) (p : Port) : (s.raise e).port p = s.port p := by
  simp only [State.raise]
  split <;> rfl

@[simp] theorem raise_partEvent (s : State) (e : PartEvent) :
    (s.raise e).ex.partEvent = s.ex.partEvent ||| e.mask := by
  simp only [State.raise]
  split <;> rfl

/-- Bits set in a word are set in a word with more bits. -/
theorem and_or_of_and {w d : Word} (h : w &&& d = d) (m : Word) : (w ||| m) &&& d = d := by
  rw [BitVec.and_comm, BitVec.and_or_distrib_left, BitVec.and_comm, h]
  ext i hi
  simp only [BitVec.getElem_and, BitVec.getElem_or]
  cases d[i] <;> simp

/-- Raising a part event sets its bit (R154). -/
theorem raised_raise (s : State) (e : PartEvent) : Raised (s.raise e) e := by
  rw [Raised, raise_partEvent, BitVec.or_comm]
  exact and_or_of_and BitVec.and_self _

theorem raise_kept (s : State) (e : PartEvent) : CutoffKept s (s.raise e) where
  same := by rw [raise_mc]; exact .refl _
  handed p := by rw [raise_port]
  events d h := by
    rw [Raised, raise_partEvent]
    exact and_or_of_and h _

@[simp] theorem handMode_mc (s : State) (m : Mode) : (s.handMode m).mc = s.mc := by simp [State.handMode]
@[simp] theorem handMode_ex (s : State) (m : Mode) : (s.handMode m).ex = s.ex := by simp [State.handMode]

theorem handMode_port (s : State) (m : Mode) (p : Port) : (s.handMode m).port p =
    if s.fitted p then { s.port p with box := { (s.port p).box with modes := (s.port p).box.modes ++ [m] } }
    else s.port p := by
  simp [State.handMode, State.port, State.onFitted, State.fitted]

/-- A mode handed on leaves the changes of the cutoff condition that wait at the ports (R94). -/
theorem handMode_kept (s : State) (m : Mode) : CutoffKept s (s.handMode m) where
  same := by rw [handMode_mc]; exact .refl _
  handed p := by
    rw [handMode_port]
    split <;> rfl
  events e h := by rwa [Raised, handMode_ex]

@[simp] theorem changeMode_mc (s : State) (m : Mode) : (s.changeMode m).mc = s.mc.change m := by
  simp only [State.changeMode]
  split <;> simp

/-- A change of mode leaves the cutoff condition (R94 to R96). -/
theorem changeMode_kept (s : State) (m : Mode) : CutoffKept s (s.changeMode m) := by
  have own : CutoffKept s (s.setMc (s.mc.change m)) := ⟨⟨rfl, rfl, rfl, rfl⟩, fun _ => rfl, fun _ => id⟩
  refine CutoffKept.trans ?_ (handMode_kept _ m)
  split
  · exact (own.trans (raise_kept _ _)).trans (raise_kept _ _)
  · exact own.trans (raise_kept _ _)

/-! ### A change of the condition handed on -/

/-- CUTOFF raised and the condition handed to every fitted port (R89): `State.cutoffChanged` before the mode. -/
def handCutoff (s : State) : State :=
  (s.raise .cutoff).onFitted fun r => { r with box := { r.box with cutoffs := r.box.cutoffs ++ [s.mc.cutoff] } }

/-- The mode that a change of the cutoff condition leaves: HOLD entered from OUTAGE as it comes into force (R97), and
left for OUTAGE as it is lifted with no floor condition (R99). -/
def modeAfter (c : ModeCtl) : Mode :=
  if c.cutoff then if c.mode = .outage then .hold else c.mode
  else if c.mode = .hold ∧ c.floorTaken = false then .outage else c.mode

/-- A change of the condition is handed on, and the mode then changed where it is to. -/
theorem cutoffChanged_eq (s : State) : s.cutoffChanged =
    if modeAfter s.mc = s.mc.mode then handCutoff s else (handCutoff s).changeMode (modeAfter s.mc) := by
  have hm : (handCutoff s).mc = s.mc := by simp [handCutoff]
  show (if s.mc.cutoff && (handCutoff s).mc.mode == .outage then (handCutoff s).changeMode .hold
    else if !s.mc.cutoff && (handCutoff s).mc.mode == .hold && !(handCutoff s).mc.floorTaken then
      (handCutoff s).changeMode .outage
    else handCutoff s) = _
  rw [hm, modeAfter]
  cases s.mc.cutoff
  · by_cases h : s.mc.mode = .hold <;> cases s.mc.floorTaken <;> simp [h]
  · by_cases h : s.mc.mode = .outage <;> simp [h]

theorem cutoffChanged_mode (s : State) : s.cutoffChanged.mc.mode = modeAfter s.mc := by
  rw [cutoffChanged_eq]
  split
  · next h => simp [handCutoff, h]
  · simp [ModeCtl.change]

theorem cutoffChanged_kept (s : State) : CutoffKept (handCutoff s) s.cutoffChanged := by
  rw [cutoffChanged_eq]
  split
  · exact .refl _
  · exact changeMode_kept _ _

/-- From `s` to `t` the mode controller has come to the cutoff condition of `c`, CUTOFF is raised, every fitted port is
handed the condition, and the mode follows (R89, R97, R99). -/
structure Handed (c : ModeCtl) (s t : State) : Prop where
  same : SameCutoff c t.mc
  raised : Raised t .cutoff
  handed : ∀ p, s.fitted p = true → (t.port p).box.cutoffs = (s.port p).box.cutoffs ++ [c.cutoff]
  mode : t.mc.mode = modeAfter c

theorem cutoffChanged_handed (s : State) : Handed s.mc s s.cutoffChanged where
  same := by
    have h := (cutoffChanged_kept s).same
    rwa [handCutoff, onFitted_mc, raise_mc] at h
  raised := (cutoffChanged_kept s).events _ (by simpa [Raised, handCutoff] using raised_raise s .cutoff)
  handed p hp := by
    have hf : (s.raise .cutoff).fitted p = true := by simpa [State.fitted] using hp
    rw [(cutoffChanged_kept s).handed p, handCutoff, port_onFitted, if_pos hf, raise_port]
  mode := cutoffChanged_mode s

/-! ### The sample before its judgement -/

/-- From `s` to `t` nothing of the mode controller has changed but the floor conditions that wait, and the changes of
the cutoff condition handed to the ports stand. -/
structure OnlyFloors (s t : State) : Prop where
  mc : ∃ fs, t.mc = withFloors s.mc fs
  handed : ∀ p, (t.port p).box.cutoffs = (s.port p).box.cutoffs

theorem OnlyFloors.trans {s t u : State} (h : OnlyFloors s t) (k : OnlyFloors t u) : OnlyFloors s u := by
  obtain ⟨fs, hm⟩ := h.mc
  obtain ⟨gs, km⟩ := k.mc
  exact ⟨⟨gs, by rw [km, hm]; rfl⟩, fun p => (k.handed p).trans (h.handed p)⟩

theorem evalLevel_onlyFloors (s : State) : OnlyFloors s s.evalLevel := by
  unfold State.evalLevel
  dsimp only
  split
  · exact ⟨⟨_, rfl⟩, fun _ => rfl⟩
  · refine ⟨⟨s.mc.floors, by rw [onFitted_mc, setCe_mc, setGw_mc, raise_mc, setBu_mc]; rfl⟩, fun p => ?_⟩
    rw [port_onFitted]
    split <;> simp

theorem evalFloor_onlyFloors (s : State) : OnlyFloors s s.evalFloor := by
  unfold State.evalFloor
  dsimp only
  split <;> exact ⟨⟨_, rfl⟩, fun _ => rfl⟩

/-- A sample is the budget unit's work, which leaves what cutoff is judged by, and then the judgement (R56, R87). -/
theorem sample_judges (s : State) (v a : Half) :
    ∃ u, OnlyFloors s u ∧ s.sample v a = u.judgeCutoff v.toNat := by
  refine ⟨_, ?_, rfl⟩
  have figures : ∀ b, OnlyFloors s (s.setBu b) := fun _ => ⟨⟨_, rfl⟩, fun _ => rfl⟩
  split
  · exact figures _
  · exact ((figures _).trans (evalLevel_onlyFloors _)).trans (evalFloor_onlyFloors _)

/-! ### The sample and its judgement -/

/-- BANK_SAMPLE is due where the part clock has moved since the last sample (R56). -/
theorem exec_bankSample_due (s : State) (v a : Half) (hd : s.bu.lastSample ≠ s.mc.clock) :
    exec (.bankSample v a) s = .next (s.finish (s.sample v a)) := by
  have due : (s.bu.lastSample != s.clock) = true := bne_iff_ne.2 hd
  have meaning : exec (.bankSample v a) s = execBankSample v a s := rfl
  rw [meaning, execBankSample, due, event_due]

theorem completes_mono {i : Instr} {s : State} {P Q : State → Prop} (h : Completes i s P) (hpq : ∀ t, P t → Q t) :
    Completes i s Q := by
  obtain ⟨t, ht, hp⟩ := h
  exact ⟨t, ht, hpq t hp⟩

/-- A sample that leaves the condition as it is: the timers and the time are the judged ones, `c`, whichever floor
conditions wait at the judgement. -/
theorem bankSample_steady {s : State} {v : Half} (a : Half) {c : ModeCtl} (hd : s.bu.lastSample ≠ s.mc.clock)
    (hj : Judged s.mc v.toNat c) (hc : c.cutoff = s.mc.cutoff) :
    Completes (.bankSample v a) s fun t => SameCutoff c t.mc := by
  obtain ⟨u, hu, hs⟩ := sample_judges s v a
  obtain ⟨fs, hm⟩ := hu.mc
  have judged : u.mc.judge v.toNat = withFloors c fs := by rw [hm, hj]
  have kept : (u.mc.judge v.toNat).cutoff = u.mc.cutoff := by rw [judged, hm]; exact hc
  refine ⟨_, exec_bankSample_due s v a hd, ?_⟩
  show SameCutoff c (s.finish (s.sample v a)).mc
  rw [finish_mc, hs, judgeCutoff_steady kept, setMc_mc, judged]
  exact ⟨rfl, rfl, rfl, rfl⟩

/-- A sample that changes the condition: it is judged to be `c`, and the change is handed on. -/
theorem bankSample_changes {s : State} {v : Half} (a : Half) {c : ModeCtl} (hd : s.bu.lastSample ≠ s.mc.clock)
    (hj : Judged s.mc v.toNat c) (hc : c.cutoff ≠ s.mc.cutoff) (hfit : c.fit = s.mc.fit) :
    Completes (.bankSample v a) s (Handed c s) := by
  obtain ⟨u, hu, hs⟩ := sample_judges s v a
  obtain ⟨fs, hm⟩ := hu.mc
  have judged : u.mc.judge v.toNat = withFloors c fs := by rw [hm, hj]
  have changed : (u.mc.judge v.toNat).cutoff ≠ u.mc.cutoff := by rw [judged, hm]; exact hc
  have fitted : ∀ p, (u.setMc (withFloors c fs)).fitted p = s.fitted p := fun p => by
    simp [State.fitted, withFloors, hfit]
  refine ⟨_, exec_bankSample_due s v a hd, ?_⟩
  rw [hs, judgeCutoff_changes changed, judged]
  obtain ⟨same, raised, handed, mode⟩ := cutoffChanged_handed (u.setMc (withFloors c fs))
  refine ⟨⟨same.cutoff, same.entry, same.lift, same.time⟩, raised, fun p hp => ?_, mode⟩
  rw [finish_port, handed p ((fitted p).trans hp), setMc_port, hu.handed p]
  rfl

/-! ### The statements -/

/-- Settles O21: each band of the sample and each age of the entry timer, by the judgement's own case. -/
theorem cutoffEntry : Obligations.CutoffEntry := by
  intro s v a hd hoff
  refine ⟨fun hv => ?_, fun hv ht => ?_, fun t0 hv ht hr => ?_, fun t0 hv ht hr => ?_⟩
  · exact completes_mono (bankSample_steady a hd (judge_stops_entry hoff hv) rfl) fun t h =>
      ⟨h.cutoff.trans hoff, h.entry, h.time⟩
  · exact completes_mono (bankSample_steady a hd (judge_starts_entry hoff hv ht) rfl) fun t h =>
      ⟨h.cutoff.trans hoff, h.entry, h.time⟩
  · exact completes_mono (bankSample_steady a hd (judge_runs_entry hoff hv ht hr) rfl) fun t h =>
      ⟨h.cutoff.trans hoff, h.entry.trans ht, h.time⟩
  · exact completes_mono (bankSample_changes a hd (judge_enters hoff hv ht hr) (by simp [hoff]) rfl) fun t h =>
      ⟨h.same.cutoff, h.same.entry, h.same.time, h.raised, h.handed, h.mode⟩

/-- Settles O22: each band of the sample and each age of the lift timer, by the judgement's own case. -/
theorem cutoffLifting : Obligations.CutoffLifting := by
  intro s v a hd hon
  refine ⟨fun hv => ?_, fun hv ht => ?_, fun t0 hv ht hr => ?_, fun t0 hv ht hr => ?_⟩
  · exact completes_mono (bankSample_steady a hd (judge_stops_lift hon hv) rfl) fun t h =>
      ⟨h.cutoff.trans hon, h.lift, h.time⟩
  · exact completes_mono (bankSample_steady a hd (judge_starts_lift hon hv ht) rfl) fun t h =>
      ⟨h.cutoff.trans hon, h.lift, h.time⟩
  · exact completes_mono (bankSample_steady a hd (judge_runs_lift hon hv ht hr) rfl) fun t h =>
      ⟨h.cutoff.trans hon, h.lift.trans ht, h.time⟩
  · exact completes_mono (bankSample_changes a hd (judge_lifts hon hv ht hr) (by simp [hon]) rfl) fun t h =>
      ⟨h.same.cutoff, h.same.lift, h.same.time, h.raised, h.handed, h.mode⟩

end Sys2Proof.Machine.CutoffJudgement
end
